-- ==== Sys2Proof/Word.lean ====
section
/-! DEFINITION. The word types of PBRS-CORE: 8-bit cells and samples (20_memory.md R60), 32-bit registers
(10_state.md R20). -/

namespace Sys2Proof

/-- One 8-bit cell: a sample, a table entry, a byte on the wire (20_memory.md R60). -/
abbrev Byte := BitVec 8

/-- One register of the register file, read and written whole (10_state.md R20, 20_memory.md R65). -/
abbrev Word := BitVec 32

end Sys2Proof
end

