-- ==== Sys2Proof/Config.lean ====
section
/-! DEFINITION. What an implementation fixes: the parameter groups CFG, KERNEL and WIRE (00_scope.md R8,
42_ditherer.md R141, 30_encoding.md R86) with their well-formedness conditions and reference instances, and the free
values (constants without a body) for what the spec leaves unspecified (93_implementation_defined.md section 2). -/

namespace Sys2Proof

/-- `CFG` (00_scope.md R8). -/
structure Cfg where
  /-- `W`: target raster width in pixels. -/
  width : Nat
  /-- `HEAD`: print-head width in pixels. -/
  head : Nat
  /-- `MAX_LINES`: maximum media length in raster lines. -/
  maxLines : Nat
  /-- `RESET_ON_IOERROR`: whether an Initialize frame is attempted after an `IoError` abort. -/
  resetOnIoError : Bool
  deriving DecidableEq, Repr

/-- `BYTES = ceil(HEAD / 8)` (00_scope.md R9, 43_packer.md R158). -/
def Cfg.bytes (c : Cfg) : Nat := (c.head + 7) / 8

/-- One tap `(dx, dy, w)` of a diffusion kernel (42_ditherer.md R141). -/
structure Tap where
  dx : Int
  dy : Nat
  weight : Nat
  deriving DecidableEq, Repr

/-- `KERNEL`: a denominator and an ordered list of taps (42_ditherer.md R141). -/
structure DiffusionKernel where
  den : Nat
  taps : List Tap
  deriving DecidableEq, Repr

/-- `KROWS = 1 + max dy` (10_state.md R39, 42_ditherer.md R141). -/
def DiffusionKernel.rows (k : DiffusionKernel) : Nat := 1 + (k.taps.map Tap.dy).foldl max 0

/-- `LEN_ORDER`: the byte order of both length fields (30_encoding.md R86). -/
inductive ByteOrder where
  | big
  | little
  deriving DecidableEq, Repr

/-- The media-type enumeration of a StatusFrame (10_state.md R27). -/
inductive MediaType where
  | continuous
  | dieCut
  | unknown
  deriving DecidableEq, Repr

/-- The phase enumeration of a StatusFrame, with the code 3 for a byte outside `PHASE_MAP` (10_state.md R27). -/
inductive Phase where
  | receiving
  | printing
  | cooling
  | unrecognized
  deriving DecidableEq, Repr

/-- `STATUS_CHECK` as plain data (30_encoding.md R86): the constant-true predicate of a protocol without a check, a
magic byte, or any other predicate on byte strings, named by a number and uninterpreted
(DESIGN CHOICE, safe: log entry 2). -/
inductive StatusCheck where
  | always
  | magic (offset : Nat) (value : Byte)
  | other (n : Nat)
  deriving DecidableEq, Repr

/-- A position of a defined error flag: index into `OFF_ERR`, bit number (30_encoding.md R86, `ERR_MAP`). -/
structure FlagPos where
  idx : Nat
  bit : Nat
  deriving DecidableEq, Repr

/-- `WIRE` (30_encoding.md R86). -/
structure Wire where
  initBytes : List Byte
  mediaTag : List Byte
  lenWidth : Nat
  rasterTag : List Byte
  rlenWidth : Nat
  lenOrder : ByteOrder
  printBytes : List Byte
  statreqBytes : List Byte
  statusLen : Nat
  statusCheck : StatusCheck
  offWidth : Nat
  offType : Nat
  offErr : List Nat
  offPhase : Nat
  /-- `TYPE_MAP`, a partial map as an association list; only `continuous` and `dieCut` are images. -/
  typeMap : List (Byte × MediaType)
  noMedia : FlagPos
  coverOpen : FlagPos
  paperJam : FlagPos
  unrecoverable : FlagPos
  /-- `PHASE_MAP`, a partial map as an association list. -/
  phaseMap : List (Byte × Phase)
  deriving DecidableEq, Repr

/-- The four positions of `ERR_MAP`. -/
def Wire.errMap (w : Wire) : List FlagPos := [w.noMedia, w.coverOpen, w.paperJam, w.unrecoverable]

/-- The constraints of 00_scope.md R8 on `CFG`. -/
def Cfg.check (c : Cfg) : Bool :=
  decide (1 ≤ c.width) && decide (c.width ≤ 65535) && decide (1 ≤ c.head) && decide (c.head ≤ 65535)
    && decide (1 ≤ c.maxLines) && decide (c.maxLines ≤ 65535)

/-- The well-formedness of `KERNEL` (42_ditherer.md R141): taps exist, each points at a pixel not yet visited, no two
at the same one, and the weights sum to the denominator. -/
def DiffusionKernel.check (k : DiffusionKernel) : Bool :=
  decide (1 ≤ k.den) && !k.taps.isEmpty
    && k.taps.all (fun t => decide (0 < t.dy) || (decide (t.dy = 0) && decide (0 < t.dx)))
    && decide ((k.taps.map fun t => (t.dx, t.dy)).Nodup)
    && decide ((k.taps.map Tap.weight).sum = k.den)

/-- The well-formedness of `WIRE` (30_encoding.md R87), with the two conditions that tie it to `CFG`. -/
def Wire.check (c : Cfg) (w : Wire) : Bool :=
  !w.initBytes.isEmpty && !w.mediaTag.isEmpty && !w.rasterTag.isEmpty && !w.printBytes.isEmpty
    && !w.statreqBytes.isEmpty
    && decide (1 ≤ w.lenWidth) && decide (1 ≤ w.rlenWidth) && decide (1 ≤ w.statusLen)
    && !w.offErr.isEmpty
    && decide ((w.offWidth :: w.offType :: w.offPhase :: w.offErr).Nodup)
    && (w.offWidth :: w.offType :: w.offPhase :: w.offErr).all (fun o => decide (o < w.statusLen))
    && decide (w.errMap.Nodup)
    && w.errMap.all (fun p => decide (p.idx < w.offErr.length) && decide (p.bit < 8))
    && decide ((w.typeMap.map Prod.fst).Nodup) && decide ((w.phaseMap.map Prod.fst).Nodup)
    && w.typeMap.all (fun e => decide (e.2 ≠ .unknown))
    && w.phaseMap.all (fun e => decide (e.2 ≠ .unrecognized))
    && w.typeMap.any (fun e => decide (e.2 = .continuous)) && w.typeMap.any (fun e => decide (e.2 = .dieCut))
    && w.phaseMap.any (fun e => decide (e.2 = .receiving)) && w.phaseMap.any (fun e => decide (e.2 = .printing))
    && w.phaseMap.any (fun e => decide (e.2 = .cooling))
    && decide (c.bytes < 2 ^ (8 * w.rlenWidth)) && decide (c.maxLines < 2 ^ (8 * w.lenWidth))

/-- The parameters of one implementation, well-formed by construction: the spec defines no behaviour for others
(93_implementation_defined.md I29). -/
structure Params where
  cfg : Cfg
  kernel : DiffusionKernel
  wire : Wire
  cfg_ok : cfg.check = true
  kernel_ok : kernel.check = true
  wire_ok : wire.check cfg = true
  deriving DecidableEq, Repr

/-- `CFG_REF` (00_scope.md R8). -/
def cfgRef : Cfg := { width := 720, head := 720, maxLines := 65535, resetOnIoError := false }

/-- `CFG_SMALL` (00_scope.md R8). -/
def cfgSmall : Cfg := { width := 8, head := 16, maxLines := 4, resetOnIoError := false }

/-- `KERNEL_REF`: Floyd–Steinberg (42_ditherer.md R142). -/
def kernelRef : DiffusionKernel :=
  { den := 16, taps := [⟨1, 0, 7⟩, ⟨-1, 1, 3⟩, ⟨0, 1, 5⟩, ⟨1, 1, 1⟩] }

/-- `WIRE_REF` (30_encoding.md R88 to R92). -/
def wireRef : Wire :=
  { initBytes := [0x01, 0xFE]
    mediaTag := [0x02]
    lenWidth := 2
    rasterTag := [0x03]
    rlenWidth := 2
    lenOrder := .big
    printBytes := [0x04, 0xFB]
    statreqBytes := [0x05, 0xFA]
    statusLen := 8
    statusCheck := .magic 0 0xA5
    offWidth := 1
    offType := 2
    offErr := [3]
    offPhase := 4
    typeMap := [(0x00, .continuous), (0x01, .dieCut)]
    noMedia := ⟨0, 0⟩
    coverOpen := ⟨0, 1⟩
    paperJam := ⟨0, 2⟩
    unrecoverable := ⟨0, 3⟩
    phaseMap := [(0x00, .receiving), (0x01, .printing), (0x02, .cooling)] }

/-- The reference instance of all parameters. -/
def Params.ref : Params := ⟨cfgRef, kernelRef, wireRef, by decide, by decide, by decide⟩

/-- The small instance the spec's test vectors use (95_test_vectors.md). -/
def Params.small : Params := ⟨cfgSmall, kernelRef, wireRef, by decide, by decide, by decide⟩

/-- LINK's answer to a `DevWrite` (20_memory.md R76); a failed write delivers a prefix of the frame, whose length the
answer names. -/
inductive WriteAnswer where
  | ok
  | ioError (code : Word) (delivered : Nat)
  | timeout (delivered : Nat)
  deriving DecidableEq, Repr, Inhabited

/-- LINK's answer to a `DevRead` (20_memory.md R77). -/
inductive ReadAnswer where
  | ok (burst : List Byte)
  | ioError (code : Word)
  | timeout
  deriving DecidableEq, Repr, Inhabited

/-- The internal buffers whose cells can be unspecified (10_state.md R38). -/
inductive Buffer where
  | scaled
  | gray
  | mono
  | raster
  deriving DecidableEq, Repr

/-- FREE VALUE: IMG cell `address` after the `epoch`-th hardware reset, as long as the host has not written it
(10_state.md R36, 93_implementation_defined.md I10; log entry 5). -/
opaque Config.imgPowerOn (epoch address : Nat) : Byte

/-- FREE VALUE: cell `index` of a buffer that holds unspecified contents; `epoch` counts the times buffers were
discarded (46_job_fsm.md R222, 93_implementation_defined.md I11; log entry 6). -/
opaque Config.bufferCell (epoch : Nat) (b : Buffer) (index : Nat) : Byte

/-- FREE VALUE: what the `n`-th host read of a cell that does not exist returns; `index` is the cell's index. The spec
states no value for it and says that no host action makes the core's behaviour undefined (70_reset_and_hazards.md R275;
DESIGN CHOICE, safe: log entry 8). -/
opaque Config.absentCell (n index : Nat) : Byte

/-- FREE VALUE: LINK's answer to a `DevWrite` beyond the answers that State lists; `n` counts the link calls made
before (20_memory.md R75, 93_implementation_defined.md I12 to I15; log entry 4). -/
opaque Config.linkWrite (n : Nat) : WriteAnswer

/-- FREE VALUE: LINK's answer to a `DevRead` beyond the answers that State lists (20_memory.md R75; log entry 4). -/
opaque Config.linkRead (n : Nat) : ReadAnswer

/-- UNINTERPRETED: the status checks other than a magic byte (30_encoding.md R86, `STATUS_CHECK`; log entry 2). -/
opaque Config.statusCheck (n : Nat) (reply : List Byte) : Bool

end Sys2Proof
end

