-- ==== Sys2Proof/Syntax.lean ====
section
/-! DEFINITION. The instructions of PBRS-CORE: one constructor per row of spec/opcode_table.json. An instruction is a
stage operation, a host command or a frame on the wire (00_scope.md R2). -/

namespace Sys2Proof

/-- One constructor per row of spec/opcode_table.json. -/
inductive Instr where
  /-- `SCALE`, control position 0001x (40_scaler.md R115). -/
  | scale
  /-- `GAMMA`, control position 0010x (41_gamma.md R130). -/
  | gamma
  /-- `DITHER`, control position 0011x (42_ditherer.md R140). -/
  | dither
  /-- `PACK`, control position 0100x (43_packer.md R155). -/
  | pack
  /-- `ENCODE`, control position 0101x (44_protocol_encoder.md R170). -/
  | encode
  /-- `TX`, control position 0110x (44_protocol_encoder.md R177). -/
  | tx
  /-- `STATREQ.op`, control position 01110 (44_protocol_encoder.md R180). -/
  | statreqOp
  /-- `STATUS.op`, control position 01111 (45_protocol_decoder.md R190). -/
  | statusOp
  /-- `START`, bit 0 of a write to `CTRL` (46_job_fsm.md R212, R213). -/
  | start
  /-- `CANCEL`, bit 1 of a write to `CTRL` (46_job_fsm.md R214). -/
  | cancel
  /-- `CLR_BUSY`, bit 2 of a write to `CTRL` (46_job_fsm.md R215). -/
  | clrBusy
  /-- The Initialize frame (44_protocol_encoder.md R172). -/
  | init
  /-- The SetMediaParameters frame (44_protocol_encoder.md R173). -/
  | media (id : Byte) (length : Nat)
  /-- The TransferRasterLine frame (44_protocol_encoder.md R174). -/
  | raster (line : List Byte)
  /-- The PrintAndEject frame (44_protocol_encoder.md R175). -/
  | print
  /-- The StatusRequest frame (44_protocol_encoder.md R176). -/
  | statreq
  /-- The status reply, as the raw bytes received (45_protocol_decoder.md R193). -/
  | status (reply : List Byte)
  deriving DecidableEq, Repr

end Sys2Proof
end

