-- ==== Sys2Proof/WellFormed.lean ====
section
/-! DEFINITION. Which instructions are well-formed under given parameters. -/

namespace Sys2Proof

/-- `STATUS_CHECK(reply)` (30_encoding.md R86). -/
def StatusCheck.holds : StatusCheck → List Byte → Bool
  | .always, _ => true
  | .magic offset value, reply => reply[offset]? == some value
  | .other n, reply => Config.statusCheck n reply

/-- An operand fits its field: the media length fits `LEN_WIDTH` bytes (30_encoding.md R95), a raster line is exactly
`BYTES` bytes (30_encoding.md R91), a status reply is exactly `STATUS_LEN` bytes and passes the check (30_encoding.md
R92, R98). Operations and commands have no operand. -/
def Instr.wellFormed (p : Params) : Instr → Bool
  | .media _ length => decide (length < 2 ^ (8 * p.wire.lenWidth))
  | .raster line => decide (line.length = p.cfg.bytes)
  | .status reply => decide (reply.length = p.wire.statusLen) && p.wire.statusCheck.holds reply
  | .scale => true
  | .gamma => true
  | .dither => true
  | .pack => true
  | .encode => true
  | .tx => true
  | .statreqOp => true
  | .statusOp => true
  | .start => true
  | .cancel => true
  | .clrBusy => true
  | .init => true
  | .print => true
  | .statreq => true

/-- No frame of one kind begins as a frame of another kind does: the first bytes of the five commands are pairwise
distinct. The spec does not require it of a `WIRE` (30_encoding.md R87 calls it "a property of the device's protocol,
not one the core needs"); `WIRE_REF` has it. Only decoding a command frame depends on it. -/
def Wire.distinctLeads (w : Wire) : Bool :=
  decide ([w.initBytes.head?, w.mediaTag.head?, w.rasterTag.head?, w.printBytes.head?, w.statreqBytes.head?].Nodup)

end Sys2Proof
end

