-- ==== Sys2Proof/Decode.lean ====
section
/-! DEFINITION. The decoder, total on any bits and rejecting by name, and the encoder. Three things have a binary
encoding (30_encoding.md R85): the control position, the value written to `CTRL`, and the bytes on the wire. The core
itself decodes the first two and the status reply; it only emits command frames (30_encoding.md R98), whose decoder
serves the table and the round trip. -/

namespace Sys2Proof

/-! ## The decoder -/

/-- Why a word is no instruction. -/
inductive DecodeError where
  /-- Control positions of `Idle`, `Done` and `Failed`: the core has no step (10_state.md R24). -/
  | noCoreStep
  /-- `JOB_STATE` codes 10 to 15 (30_encoding.md R98). -/
  | reservedJobState
  /-- A `CTRL` value with none of the three command bits set: it does nothing (46_job_fsm.md R211). -/
  | noCommand
  /-- A `CTRL` value with several command bits set: a sequence of instructions, not one (46_job_fsm.md R211). -/
  | severalCommands
  /-- Bytes that begin no command frame. -/
  | notAFrame
  /-- A command frame cut short. -/
  | truncatedFrame
  /-- Bytes after the end of a frame. -/
  | trailingBytes
  /-- A reply that is not `STATUS_LEN` bytes long (45_protocol_decoder.md R191). -/
  | wrongReplyLength
  /-- A reply that fails `STATUS_CHECK` (45_protocol_decoder.md R192). -/
  | badReplyCheck
  deriving DecidableEq, Repr

/-- The stage operation at a control position `{JOB_STATE[3:0], AW_SUB}` (30_encoding.md R96). -/
def decodePosition (cp : BitVec 5) : Except DecodeError Instr :=
  match (cp.extractLsb' 1 4).toNat with
  | 1 => .ok .scale
  | 2 => .ok .gamma
  | 3 => .ok .dither
  | 4 => .ok .pack
  | 5 => .ok .encode
  | 6 => .ok .tx
  | 7 => if cp.getLsbD 0 then .ok .statusOp else .ok .statreqOp
  | 0 => .error .noCoreStep
  | 8 => .error .noCoreStep
  | 9 => .error .noCoreStep
  | _ => .error .reservedJobState

/-- The host commands of one write to `CTRL`, in the order in which they are performed: `CLR_BUSY`, `CANCEL`, `START`;
bits 3 to 31 are ignored (46_job_fsm.md R211). -/
def decodeCtrl (v : Word) : List Instr :=
  (if v.getLsbD 2 then [.clrBusy] else []) ++ (if v.getLsbD 1 then [.cancel] else [])
    ++ (if v.getLsbD 0 then [.start] else [])

/-- The number in a field: its bytes most significant first (`big`) or least significant first (`little`)
(30_encoding.md R95). -/
def fieldValue (o : ByteOrder) (bs : List Byte) : Nat :=
  match o with
  | .big => bs.foldl (fun acc b => acc * 256 + b.toNat) 0
  | .little => bs.foldr (fun b acc => acc * 256 + b.toNat) 0

/-- The bytes of `n` in a field of `width` bytes: byte `i` is `(n div 256^(width-1-i)) mod 256` for `big`,
`(n div 256^i) mod 256` for `little` (30_encoding.md R95). -/
def fieldBytes (n width : Nat) (o : ByteOrder) : List Byte :=
  (List.range width).map fun i =>
    match o with
    | .big => BitVec.ofNat 8 (n / 256 ^ (width - 1 - i))
    | .little => BitVec.ofNat 8 (n / 256 ^ i)

/-- The bytes after a fixed string, if the bytes begin with it. -/
def afterPrefix (pre bs : List Byte) : Option (List Byte) :=
  if bs.take pre.length = pre then some (bs.drop pre.length) else none

/-- The first command frame of a byte string and the bytes after it (30_encoding.md R89 to R91, R99). -/
def decodeFrame (w : Wire) (bs : List Byte) : Except DecodeError (Instr × List Byte) :=
  match afterPrefix w.initBytes bs with
  | some rest => .ok (.init, rest)
  | none =>
  match afterPrefix w.printBytes bs with
  | some rest => .ok (.print, rest)
  | none =>
  match afterPrefix w.statreqBytes bs with
  | some rest => .ok (.statreq, rest)
  | none =>
  match afterPrefix w.mediaTag bs with
  | some rest =>
    match rest with
    | [] => .error .truncatedFrame
    | id :: rest' =>
      if rest'.length < w.lenWidth then .error .truncatedFrame
      else .ok (.media id (fieldValue w.lenOrder (rest'.take w.lenWidth)), rest'.drop w.lenWidth)
  | none =>
  match afterPrefix w.rasterTag bs with
  | some rest =>
    if rest.length < w.rlenWidth then .error .truncatedFrame
    else
      let n := fieldValue w.lenOrder (rest.take w.rlenWidth)
      let body := rest.drop w.rlenWidth
      if body.length < n then .error .truncatedFrame
      else .ok (.raster (body.take n), body.drop n)
  | none => .error .notAFrame

/-- The status reply (30_encoding.md R92, R98). -/
def decodeReplyBytes (w : Wire) (bs : List Byte) : Except DecodeError Instr :=
  if bs.length ≠ w.statusLen then .error .wrongReplyLength
  else if w.statusCheck.holds bs then .ok (.status bs) else .error .badReplyCheck

/-- What is encoded, and where it stands (30_encoding.md R85). -/
inductive Encoding where
  /-- The control position `{JOB_STATE[3:0], AW_SUB}`. -/
  | position (cp : BitVec 5)
  /-- The value written to register `CTRL`. -/
  | ctrl (value : Word)
  /-- A frame sent to LINK. -/
  | frame (bytes : List Byte)
  /-- A reply read from LINK. -/
  | reply (bytes : List Byte)
  deriving DecidableEq, Repr

/-- The one instruction an encoding stands for. -/
def decode (w : Wire) : Encoding → Except DecodeError Instr
  | .position cp => decodePosition cp
  | .ctrl v =>
    match decodeCtrl v with
    | [] => .error .noCommand
    | [i] => .ok i
    | _ => .error .severalCommands
  | .frame bs =>
    match decodeFrame w bs with
    | .ok (i, []) => .ok i
    | .ok (_, _ :: _) => .error .trailingBytes
    | .error e => .error e
  | .reply bs => decodeReplyBytes w bs

/-! ## The encoder -/

/-- `Frame_INIT` (44_protocol_encoder.md R172). -/
def frameInit (w : Wire) : List Byte := w.initBytes

/-- `Frame_MEDIA(id, n)` (44_protocol_encoder.md R173). -/
def frameMedia (w : Wire) (id : Byte) (n : Nat) : List Byte :=
  w.mediaTag ++ id :: fieldBytes n w.lenWidth w.lenOrder

/-- `Frame_RASTER(line)`; `rlen` is the number of bytes of the line (30_encoding.md R91, 44_protocol_encoder.md R174). -/
def frameRaster (w : Wire) (line : List Byte) : List Byte :=
  w.rasterTag ++ fieldBytes line.length w.rlenWidth w.lenOrder ++ line

/-- `Frame_PRINT` (44_protocol_encoder.md R175). -/
def framePrint (w : Wire) : List Byte := w.printBytes

/-- `Frame_STATREQ` (44_protocol_encoder.md R176). -/
def frameStatreq (w : Wire) : List Byte := w.statreqBytes

/-- The encoding of each instruction (30_encoding.md R89 to R92, R96, R97); a control position that does not examine
`AW_SUB` is written with `AW_SUB = 0`. -/
def encode (w : Wire) : Instr → Encoding
  | .scale => .position 0x02#5
  | .gamma => .position 0x04#5
  | .dither => .position 0x06#5
  | .pack => .position 0x08#5
  | .encode => .position 0x0A#5
  | .tx => .position 0x0C#5
  | .statreqOp => .position 0x0E#5
  | .statusOp => .position 0x0F#5
  | .start => .ctrl 0x1#32
  | .cancel => .ctrl 0x2#32
  | .clrBusy => .ctrl 0x4#32
  | .init => .frame (frameInit w)
  | .media id n => .frame (frameMedia w id n)
  | .raster line => .frame (frameRaster w line)
  | .print => .frame (framePrint w)
  | .statreq => .frame (frameStatreq w)
  | .status reply => .reply reply

/-! ## The words of spec/opcode_table.json

The table writes a frame as one number with byte 0 most significant, a control position in 5 bits (one byte here) and
a `CTRL` value in 32 bits. A 32-bit number whose top byte is the MEDIA tag 0x02 is read as the MEDIA frame, any other
as a `CTRL` value (DESIGN CHOICE, safe: log entry 13). -/

/-- The bytes of a number of `count` bytes, byte 0 most significant. -/
def numberBytes (count w : Nat) : List Byte :=
  (List.range count).map fun i => BitVec.ofNat 8 (w / 256 ^ (count - 1 - i))

/-- Which encoding a word of the table is, under the table's own byte values `WIRE_REF`. A RASTER word gives the three
header bytes; its operand bytes, which the table gives no bits, are 0. -/
def tableEncoding (nbits w : Nat) : Encoding :=
  let bytes := numberBytes (nbits / 8) w
  if nbits ≤ 8 then .position (BitVec.ofNat 5 w)
  else if nbits = 32 ∧ bytes.head? ≠ some 0x02#8 then .ctrl (BitVec.ofNat 32 w)
  else if nbits = 64 then .reply bytes
  else if bytes.head? = some 0x03#8 then
    .frame (bytes ++ List.replicate (fieldValue .big ((bytes.drop 1).take 2) + 3 - bytes.length) 0#8)
  else .frame bytes

/-- The instruction the decoder reads from a word of spec/opcode_table.json. -/
def decodeTableWord (nbits w : Nat) : Option Instr :=
  if nbits ≤ 8 ∧ 32 ≤ w then none
  else
    match decode wireRef (tableEncoding nbits w) with
    | .ok i => some i
    | .error _ => none

end Sys2Proof
end

