-- ==== Sys2Proof/Machine/State.lean ====
section
/-! DEFINITION. The machine's state as plain data: the host-visible registers and table spaces (10_state.md sections 1
to 6), the hidden buffers (section 7), and the environment the rules name (R41), with what drives it: the host's
schedule and LINK's answers. -/

namespace Sys2Proof.Machine

/-- `JOB_STATE` (10_state.md R24). Codes 10 to 15 are never held and are not representable (30_encoding.md R98). -/
inductive JobState where
  | idle
  | scaling
  | correctingGamma
  | dithering
  | packing
  | encoding
  | transferring
  | awaitingStatus
  | done
  | failed
  deriving DecidableEq, Repr

/-- `JOB_CFG.FIT_MODE` (10_state.md R29). -/
inductive FitMode where
  | pad
  | crop
  | rejectOversized
  deriving DecidableEq, Repr

/-- `JOB_CFG.ALIGN` (10_state.md R29). -/
inductive Align where
  | leftPadded
  | centered
  deriving DecidableEq, Repr

/-- `ST_FRAME.ERR_FLAGS` (10_state.md R27). -/
structure ErrFlags where
  noMedia : Bool
  coverOpen : Bool
  paperJam : Bool
  unrecoverable : Bool
  unrecognized : Bool
  deriving DecidableEq, Repr

/-- The decoded StatusFrame held by `ST_FRAME` (10_state.md R27). -/
structure StFrame where
  mediaWidthMm : Byte
  mediaType : MediaType
  flags : ErrFlags
  phase : Phase
  deriving DecidableEq, Repr

/-- `ST_FRAME` cleared: the value the register has at reset and after an accepted `START` (10_state.md R27, R42). -/
def StFrame.zero : StFrame := ⟨0, .continuous, ⟨false, false, false, false, false⟩, .receiving⟩

/-- The parser states of the byte-serial ProtocolDecoder (45_protocol_decoder.md R199). -/
inductive RxState where
  | collect
  | ok
  | short
  | badCheck
  deriving DecidableEq, Repr

/-- The job descriptor: the RW registers (10_state.md R28 to R31). -/
structure Job where
  imgWidth : BitVec 16
  imgHeight : BitVec 16
  rgb : Bool
  fitMode : FitMode
  align : Align
  mediaId : Byte
  ditherBias : BitVec 8
  timeout : Word
  deriving DecidableEq, Repr

/-- The control position and the flags of `STATUS` other than `ST_VALID` (10_state.md R23 to R25). -/
structure Control where
  jobState : JobState
  frameIdx : Word
  awSub : Bool
  devOwn : Bool
  cancelPend : Bool
  busyReject : Bool
  deriving DecidableEq, Repr

/-- The result registers and `ST_RAW` (10_state.md R26, R27, R32, R37). -/
structure Result where
  errCode : BitVec 8
  errStage : BitVec 4
  errInfo : Word
  stValid : Bool
  stFrame : StFrame
  stRaw : List Byte
  outHeight : BitVec 16
  nLines : BitVec 16
  deriving DecidableEq, Repr

/-- The internal buffers (10_state.md R38, R39), each as its cells in index order. A cell that a list does not hold is
unspecified (log entry 6). -/
structure Buffers where
  scaled : List Byte
  gray : List Byte
  mono : List Bool
  raster : List Byte
  txq : List (List Byte)
  rxbuf : List Byte
  acc : List (List Int)
  deriving DecidableEq, Repr

/-- The registers of the serial datapaths (10_state.md R40): `SR`, `BC`, `RX_STATE`, `RX_CNT` and the encoder's byte
counter (log entry 9). -/
structure Serial where
  sr : Byte
  bc : BitVec 3
  rxState : RxState
  rxCnt : Nat
  txCnt : Nat
  deriving DecidableEq, Repr

/-- What may happen next: a core step, one atomic host access (46_job_fsm.md R211), or a hardware reset
(70_reset_and_hazards.md R270). -/
inductive Event where
  | core
  | writeReg (number : Nat) (value : Word)
  | readReg (number : Nat)
  | writeLut (index value : Byte)
  | readLut (index : Byte)
  | writeImg (index : Nat) (value : Byte)
  | readImg (index : Nat)
  | readStRaw (index : Nat)
  | hardwareReset
  deriving DecidableEq, Repr

/-- One call the core made on LINK, with the `TIMEOUT` it handed over (10_state.md R31, 60_exceptions.md R252). -/
inductive LinkCall where
  | write (bytes : List Byte) (timeout : Word)
  | read (count : Nat) (timeout : Word)
  deriving DecidableEq, Repr

/-- The environment: `TX_LOG` (20_memory.md R78), and the model's own record of what HOST will do, what LINK will
answer, the calls made and the last value a host read returned (log entries 3, 4, 18); the three counters index the free
values of `IMG`, of the buffers and of host reads of cells that do not exist (log entries 5, 6, 8). -/
structure Env where
  txLog : List Byte
  schedule : List Event
  writeAnswers : List WriteAnswer
  readAnswers : List ReadAnswer
  calls : List LinkCall
  hostRd : Word
  imgEpoch : Nat
  bufEpoch : Nat
  absentReads : Nat
  deriving DecidableEq, Repr

/-- A memory of 8-bit cells as the list of its listed cells, in the canonical form `Memory.wf` (Machine/Ops.lean). -/
abbrev Memory := List Host.Cell

/-- The whole machine. `params` holds the implementation's parameters, which no step writes (log entry 1). -/
structure State where
  params : Params
  job : Job
  lut : Memory
  img : Memory
  ctl : Control
  res : Result
  buf : Buffers
  ser : Serial
  env : Env
  deriving DecidableEq, Repr

/-- Why the machine stops: an access of the core outside a space (20_memory.md R60, R61). No host access stops it
(70_reset_and_hazards.md R275, 60_exceptions.md R251). -/
inductive Fault where
  /-- Raised by `TX` when the queue has no frame at `FRAME_IDX`; no state that a run reaches has this. Safe. -/
  | txqIndexOutsideQueue
  deriving DecidableEq, Repr

/-- Why an instruction has no meaning. -/
inductive Refusal where
  /-- Raised by an arm of `exec` whose instruction the model does not give yet; no arm does. Safe. -/
  | notModelled (mnemonic : String)
  deriving DecidableEq, Repr

/-- The typed errors that end a job, with their arguments (60_exceptions.md R240, R241). `PrinterBusy` is not among
them: it is reported through `BUSY_REJECT` and never recorded (60_exceptions.md R250). -/
inductive PrintError where
  | emptyImage
  | imageTooLarge
  | rowTooWide
  | ioError (code : Word)
  | deviceTimeout
  | malformedStatus
  | deviceReportedFault (flags : ErrFlags)
  | cancelled
  deriving DecidableEq, Repr

/-- The descriptor at reset (10_state.md R42). -/
def Job.reset : Job :=
  { imgWidth := 0, imgHeight := 0, rgb := false, fitMode := .rejectOversized, align := .leftPadded, mediaId := 0
    ditherBias := 0, timeout := 0xFFFFFFFF }

/-- The control position and flags at reset (10_state.md R42). -/
def Control.reset : Control :=
  { jobState := .idle, frameIdx := 0, awSub := false, devOwn := false, cancelPend := false, busyReject := false }

/-- The results at reset (10_state.md R42). -/
def Result.reset : Result :=
  { errCode := 0, errStage := 0, errInfo := 0, stValid := false, stFrame := .zero, stRaw := [], outHeight := 0
    nLines := 0 }

/-- The buffers at reset: unspecified (10_state.md R42), so no cell is held. -/
def Buffers.reset : Buffers :=
  { scaled := [], gray := [], mono := [], raster := [], txq := [], rxbuf := [], acc := [] }

/-- The serial registers at reset: unspecified (10_state.md R42); DESIGN CHOICE, log entry 9. -/
def Serial.reset : Serial := { sr := 0, bc := 0, rxState := .collect, rxCnt := 0, txCnt := 0 }

/-- The environment at power-on: `TX_LOG` empty (10_state.md R42), nothing scheduled, nothing answered. -/
def Env.reset : Env :=
  { txLog := [], schedule := [], writeAnswers := [], readAnswers := [], calls := [], hostRd := 0, imgEpoch := 0
    bufEpoch := 0, absentReads := 0 }

/-- The machine right after reset, for given parameters (10_state.md R42, 70_reset_and_hazards.md R271). `LUT` lists
nothing: every cell reads its own index; `IMG` lists nothing: every cell is unspecified. -/
def State.resetWith (p : Params) : State :=
  { params := p, job := .reset, lut := [], img := [], ctl := .reset, res := .reset, buf := .reset, ser := .reset
    env := .reset }

/-- The machine right after reset, with the reference parameters. -/
def State.reset : State := State.resetWith Params.ref

end Sys2Proof.Machine
end

