-- ==== Sys2Proof/Machine/Operands.lean ====
section
/-! DEFINITION. Operands: the arithmetic every rule uses (00_scope.md R11), the codes of the register fields
(10_state.md), the operands that the stage operations take from the descriptor, and the image layout. -/

namespace Sys2Proof.Machine

/-- `rhu(n, d)`: n/d rounded to the nearest integer, ties upward (00_scope.md R11). -/
def rhu (n d : Nat) : Nat := (2 * n + d) / (2 * d)

/-- The sum of `f 0, …, f (n-1)`. -/
def sumTo : Nat → (Nat → Nat) → Nat
  | 0, _ => 0
  | n + 1, f => sumTo n f + f n

/-- The first `n` values of a list whose missing values are free: those it holds, then the free ones. -/
def viewCells {α : Type} (held : List α) (free : Nat → α) (n : Nat) : List α :=
  held.take n ++ (List.range (n - held.length)).map fun i => free (held.length + i)

/-- `count` consecutive rows of `width` cells (the row-major layout of 20_memory.md R62). -/
def splitRows {α : Type} (width : Nat) : Nat → List α → List (List α)
  | 0, _ => []
  | count + 1, cells => cells.take width :: splitRows width count (cells.drop width)

/-- The cell of channel `k` of pixel (x, y) in an image of width `w` with `c` channels (20_memory.md R62). -/
def cellIndex (w c x y k : Nat) : Nat := (y * w + x) * c + k

/-! ## Codes -/

/-- The codes of `JOB_STATE` (10_state.md R24). -/
def JobState.code : JobState → BitVec 4
  | .idle => 0
  | .scaling => 1
  | .correctingGamma => 2
  | .dithering => 3
  | .packing => 4
  | .encoding => 5
  | .transferring => 6
  | .awaitingStatus => 7
  | .done => 8
  | .failed => 9

/-- The state of a code; 10 to 15 are reserved (10_state.md R24). -/
def jobStateOfCode (c : Nat) : Option JobState :=
  match c with
  | 0 => some .idle
  | 1 => some .scaling
  | 2 => some .correctingGamma
  | 3 => some .dithering
  | 4 => some .packing
  | 5 => some .encoding
  | 6 => some .transferring
  | 7 => some .awaitingStatus
  | 8 => some .done
  | 9 => some .failed
  | _ => none

/-- Busy: `JOB_STATE` is neither `Idle` nor terminal (00_scope.md R14). -/
def JobState.busy : JobState → Bool
  | .idle => false
  | .scaling => true
  | .correctingGamma => true
  | .dithering => true
  | .packing => true
  | .encoding => true
  | .transferring => true
  | .awaitingStatus => true
  | .done => false
  | .failed => false

/-- The core is busy (10_state.md R44). -/
def State.busy (s : State) : Bool := s.ctl.jobState.busy

/-- The control position `{JOB_STATE[3:0], AW_SUB}` (30_encoding.md R96). -/
def State.position (s : State) : BitVec 5 := s.ctl.jobState.code ++ BitVec.ofBool s.ctl.awSub

/-- `FIT_MODE` of a written field: the value 3 is stored as 2 (10_state.md R29). -/
def fitModeOfBits (v : BitVec 2) : FitMode :=
  match v.toNat with
  | 0 => .pad
  | 1 => .crop
  | _ => .rejectOversized

/-- The code of `FIT_MODE` (10_state.md R29). -/
def FitMode.code : FitMode → BitVec 2
  | .pad => 0
  | .crop => 1
  | .rejectOversized => 2

/-- `ALIGN` of a written bit (10_state.md R29). -/
def alignOfBit (b : Bool) : Align := if b then .centered else .leftPadded

/-- The bit of `ALIGN` (10_state.md R29). -/
def Align.bit : Align → Bool
  | .leftPadded => false
  | .centered => true

/-- The code of `MEDIA_TYPE` (10_state.md R27). -/
def mediaTypeCode : MediaType → BitVec 2
  | .continuous => 0
  | .dieCut => 1
  | .unknown => 2

/-- The code of `PHASE` (10_state.md R27). -/
def phaseCode : Phase → BitVec 2
  | .receiving => 0
  | .printing => 1
  | .cooling => 2
  | .unrecognized => 3

/-! ## Operands of the stage operations -/

/-- The channel count `CH` (10_state.md R28). -/
def Job.channels (j : Job) : Nat := if j.rgb then 3 else 1

/-- The dither threshold `T = 128 + sext_8(DITHER_BIAS)` (42_ditherer.md R143). -/
def Job.threshold (j : Job) : Int := 128 + j.ditherBias.toInt

/-- The offset of the image in a raster line: `HEAD - W` left-padded, half of it centered (43_packer.md R159). -/
def alignOffset (c : Cfg) : Align → Nat
  | .leftPadded => c.head - c.width
  | .centered => (c.head - c.width) / 2

/-- Number of cells of the largest image that 16-bit dimensions and three channels allow (92_eei_decisions.md D41). -/
def imgSpace : Nat := 65535 * 65535 * 3

end Sys2Proof.Machine
end

