-- ==== Sys2Proof/Machine/Flags.lean ====
section
/-! DEFINITION. Flags: the error flags of a status reply and how they are decoded (45_protocol_decoder.md R193 to
R197), and the register values made of flags (10_state.md R23, R26, R27). -/

namespace Sys2Proof.Machine

/-- `ERR_FLAGS` as a 5-bit number: `NO_MEDIA` = bit 0 to `UNRECOGNIZED` = bit 4 (10_state.md R27). -/
def ErrFlags.bits (f : ErrFlags) : BitVec 5 :=
  BitVec.ofBool f.unrecognized ++ BitVec.ofBool f.unrecoverable ++ BitVec.ofBool f.paperJam
    ++ BitVec.ofBool f.coverOpen ++ BitVec.ofBool f.noMedia

/-- Some error flag is set (45_protocol_decoder.md R200). -/
def ErrFlags.any (f : ErrFlags) : Bool :=
  f.noMedia || f.coverOpen || f.paperJam || f.unrecoverable || f.unrecognized

/-- The byte of a reply at an offset, with no extension, scaling or sign (30_encoding.md R95). -/
def replyByte (reply : List Byte) (offset : Nat) : Byte := reply.getD offset 0

/-- `TypeOf(t)` (45_protocol_decoder.md R194). -/
def typeOf (w : Wire) (t : Byte) : MediaType := (w.typeMap.lookup t).getD .unknown

/-- `PhaseOf(p)`: the phase and whether the byte is unknown (45_protocol_decoder.md R196). -/
def phaseOf (w : Wire) (p : Byte) : Phase × Bool :=
  match w.phaseMap.lookup p with
  | some ph => (ph, false)
  | none => (.unrecognized, true)

/-- A bit of the error-flags bytes: bit `pos.bit` of the byte at `OFF_ERR[pos.idx]` (45_protocol_decoder.md R195). -/
def errBit (w : Wire) (reply : List Byte) (pos : FlagPos) : Bool :=
  (replyByte reply (w.offErr.getD pos.idx 0)).getLsbD pos.bit

/-- Some bit of some error-flags byte is set that is no defined flag's position (45_protocol_decoder.md R195). -/
def unknownErrBit (w : Wire) (reply : List Byte) : Bool :=
  (List.range w.offErr.length).any fun i => (List.range 8).any fun n =>
    errBit w reply ⟨i, n⟩ && decide (⟨i, n⟩ ∉ w.errMap)

/-- `Decode(b)` (45_protocol_decoder.md R193 to R197). -/
def decodeStatus (w : Wire) (reply : List Byte) : StFrame :=
  let ph := phaseOf w (replyByte reply w.offPhase)
  { mediaWidthMm := replyByte reply w.offWidth
    mediaType := typeOf w (replyByte reply w.offType)
    flags :=
      { noMedia := errBit w reply w.noMedia
        coverOpen := errBit w reply w.coverOpen
        paperJam := errBit w reply w.paperJam
        unrecoverable := errBit w reply w.unrecoverable
        unrecognized := unknownErrBit w reply || ph.2 }
    phase := ph.1 }

/-! ## Register values -/

/-- `ST_FRAME` as a register: width [7:0], type [9:8], flags [14:10], phase [17:16] (10_state.md R27). -/
def StFrame.word (f : StFrame) : Word :=
  0#14 ++ phaseCode f.phase ++ 0#1 ++ f.flags.bits ++ mediaTypeCode f.mediaType ++ f.mediaWidthMm

/-- `STATUS` as a register (10_state.md R21, R23). -/
def State.statusWord (s : State) : Word :=
  0#24 ++ BitVec.ofBool s.res.stValid ++ BitVec.ofBool s.ctl.busyReject ++ BitVec.ofBool s.ctl.cancelPend
    ++ BitVec.ofBool s.ctl.devOwn ++ s.ctl.jobState.code

/-- `ERR` as a register: code [7:0], stage [11:8] (10_state.md R26). -/
def State.errWord (s : State) : Word := 0#20 ++ s.res.errStage ++ s.res.errCode

/-- `ST_FRAME` reads 0 while `ST_VALID` = 0 (10_state.md R27). -/
def State.stFrameWord (s : State) : Word := if s.res.stValid then s.res.stFrame.word else 0

/-- `JOB_CFG` as a register (10_state.md R29). -/
def Job.cfgWord (j : Job) : Word := 0#16 ++ j.mediaId ++ 0#5 ++ BitVec.ofBool j.align.bit ++ j.fitMode.code

/-! ## The errors (60_exceptions.md R241) -/

/-- `ERR_CODE` of an error. -/
def PrintError.code : PrintError → BitVec 8
  | .emptyImage => 0x11
  | .imageTooLarge => 0x12
  | .rowTooWide => 0x13
  | .ioError _ => 0x21
  | .deviceTimeout => 0x22
  | .malformedStatus => 0x31
  | .deviceReportedFault _ => 0x41
  | .cancelled => 0x51

/-- `ERR_INFO` of an error: the link's code, the reported flags in bits [4:0], or 0. -/
def PrintError.info : PrintError → Word
  | .ioError code => code
  | .deviceReportedFault flags => 0#27 ++ flags.bits
  | .emptyImage => 0
  | .imageTooLarge => 0
  | .rowTooWide => 0
  | .deviceTimeout => 0
  | .malformedStatus => 0
  | .cancelled => 0

/-- The code of `PrinterBusy`, for the host's `print()` result only (60_exceptions.md R250). -/
def printerBusyCode : BitVec 8 := 0x23

/-- `NeedsReset(E, stage)` (60_exceptions.md R246). -/
def needsReset (c : Cfg) (e : PrintError) (stage : JobState) : Bool :=
  match e with
  | .deviceTimeout => true
  | .cancelled =>
    match stage with
    | .transferring => true
    | .awaitingStatus => true
    | .idle => false
    | .scaling => false
    | .correctingGamma => false
    | .dithering => false
    | .packing => false
    | .encoding => false
    | .done => false
    | .failed => false
  | .ioError _ => c.resetOnIoError
  | .emptyImage => false
  | .imageTooLarge => false
  | .rowTooWide => false
  | .malformedStatus => false
  | .deviceReportedFault _ => false

end Sys2Proof.Machine
end

