-- ==== Sys2Proof/Machine/Ops.lean ====
section
/-! DEFINITION. The named operations over memory, buffers, registers and the link, and the abort sequence with its
counterpart, the re-arming by `START`. -/

namespace Sys2Proof.Machine

/-! ## Memories in canonical form

A memory lists the cells that differ from what an unlisted cell reads as, at strictly rising addresses.
`dflt a = some v` says that an unlisted cell `a` reads `v`, `dflt a = none` that it holds no stated value. -/

/-- The listed value of a cell. -/
def Memory.get? : Memory → Nat → Option Byte
  | [], _ => none
  | (b, v) :: rest, a => if a = b then some v else Memory.get? rest a

/-- Take a cell out of the list. -/
def Memory.erase : Memory → Nat → Memory
  | [], _ => []
  | (b, v) :: rest, a => if a = b then rest else (b, v) :: Memory.erase rest a

/-- List a cell at its place. -/
def Memory.insert : Memory → Nat → Byte → Memory
  | [], a, v => [(a, v)]
  | (b, u) :: rest, a, v =>
    if a < b then (a, v) :: (b, u) :: rest
    else if a = b then (a, v) :: rest
    else (b, u) :: Memory.insert rest a v

/-- Write one cell, keeping the canonical form: the value an unlisted cell reads as takes the entry out. -/
def Memory.put (dflt : Nat → Option Byte) (m : Memory) (a : Nat) (v : Byte) : Memory :=
  if dflt a = some v then m.erase a else m.insert a v

/-- Addresses rise strictly from the first entry on. -/
def Memory.rising : Memory → Bool
  | [] => true
  | [_] => true
  | (a, _) :: (b, v) :: rest => decide (a < b) && Memory.rising ((b, v) :: rest)

/-- The canonical form of a memory of `size` cells: addresses rise strictly and lie in the space, and no entry equals
what the unlisted cell reads as. -/
def Memory.wf (size : Nat) (dflt : Nat → Option Byte) (m : Memory) : Bool :=
  m.rising && m.all fun e => decide (e.1 < size) && decide (dflt e.1 ≠ some e.2)

/-- An unlisted `LUT` cell reads its own index (10_state.md R35). -/
def lutDefault (i : Nat) : Option Byte := some (BitVec.ofNat 8 i)

/-- An unlisted `IMG` cell holds no stated value (10_state.md R36). -/
def imgDefault (_ : Nat) : Option Byte := none

/-- Cell `i` of `LUT` (10_state.md R35). -/
def State.lutCell (s : State) (i : Nat) : Byte := (s.lut.get? i).getD ((lutDefault i).getD 0)

/-- Cell `a` of `IMG`: as the host wrote it, else a free value (10_state.md R36; log entry 5). -/
def State.imgCell (s : State) (a : Nat) : Byte := (s.img.get? a).getD (Config.imgPowerOn s.env.imgEpoch a)

/-- Cell `i` of `ST_RAW`: reads 0 while `ST_VALID` = 0 (10_state.md R37). -/
def State.stRawCell (s : State) (i : Nat) : Byte := if s.res.stValid then s.res.stRaw.getD i 0 else 0

/-- `MemRead(IMG, addr, n)` (20_memory.md R61). -/
def State.imgRead (s : State) (addr n : Nat) : List Byte := (List.range n).map fun i => s.imgCell (addr + i)

/-- `MemRead(LUT, addr, n)` (20_memory.md R61). -/
def State.lutRead (s : State) (addr n : Nat) : List Byte := (List.range n).map fun i => s.lutCell (addr + i)

/-- `MemWrite(space, addr, n, v)` on a table space (20_memory.md R61). -/
def Memory.putRun (dflt : Nat → Option Byte) (m : Memory) (addr : Nat) : List Byte → Memory
  | [] => m
  | v :: vs => Memory.putRun dflt (m.put dflt addr v) (addr + 1) vs

/-! ## Buffers (10_state.md R38)

Each buffer is written whole by one stage and read by the next; a cell it does not hold is a free value. -/

/-- The first `n` cells of `SCALED`. -/
def State.scaledCells (s : State) (n : Nat) : List Byte :=
  viewCells s.buf.scaled (fun i => Config.bufferCell s.env.bufEpoch .scaled i) n

/-- The first `n` cells of `GRAY`. -/
def State.grayCells (s : State) (n : Nat) : List Byte :=
  viewCells s.buf.gray (fun i => Config.bufferCell s.env.bufEpoch .gray i) n

/-- The first `n` cells of `MONO`. -/
def State.monoCells (s : State) (n : Nat) : List Bool :=
  viewCells s.buf.mono (fun i => (Config.bufferCell s.env.bufEpoch .mono i).getLsbD 0) n

/-- The first `n` cells of `RASTER`. -/
def State.rasterCells (s : State) (n : Nat) : List Byte :=
  viewCells s.buf.raster (fun i => Config.bufferCell s.env.bufEpoch .raster i) n

/-- Every internal buffer becomes unspecified (46_job_fsm.md R222). -/
def State.discardBuffers (s : State) : State :=
  { s with
    buf := { scaled := [], gray := [], mono := [], raster := [], txq := [], rxbuf := [], acc := [] }
    env := { s.env with bufEpoch := s.env.bufEpoch + 1 } }

/-- `RASTER` and `TXQ` become unspecified when the last `TX` succeeds (44_protocol_encoder.md R177). -/
def State.discardSent (s : State) : State :=
  { s with
    buf := { s.buf with raster := [], txq := [] }
    env := { s.env with bufEpoch := s.env.bufEpoch + 1 } }

/-! ## The link (20_memory.md R75 to R78) -/

/-- LINK's answer to the next `DevWrite`: the next one listed, else a free value (20_memory.md R76). -/
def State.nextWrite (s : State) : WriteAnswer :=
  match s.env.writeAnswers with
  | a :: _ => a
  | [] => Config.linkWrite s.env.calls.length

/-- LINK's answer to the next `DevRead(n)`: a burst has at most `n` bytes (20_memory.md R77). -/
def State.nextRead (s : State) (n : Nat) : ReadAnswer :=
  match (match s.env.readAnswers with
    | a :: _ => a
    | [] => Config.linkRead s.env.calls.length) with
  | .ok burst => .ok (burst.take n)
  | .ioError code => .ioError code
  | .timeout => .timeout

/-- The bytes a write appends to `TX_LOG`: all of them, or the prefix that a failed write delivered
(20_memory.md R76). -/
def appendedBytes (bytes : List Byte) : WriteAnswer → List Byte
  | .ok => bytes
  | .ioError _ delivered => bytes.take delivered
  | .timeout delivered => bytes.take delivered

/-- `DevWrite(bytes)`: what the call changes whatever its answer `s.nextWrite` is. One frame is one call
(44_protocol_encoder.md R178); the byte counter has run over the frame (44_protocol_encoder.md R179). -/
def State.devWrite (bytes : List Byte) (s : State) : State :=
  { s with
    ser := { s.ser with txCnt := bytes.length }
    env := { s.env with
      txLog := s.env.txLog ++ appendedBytes bytes s.nextWrite
      writeAnswers := s.env.writeAnswers.tail
      calls := s.env.calls ++ [.write bytes s.job.timeout] } }

/-- `DevRead(n)`: what the call changes whatever its answer `s.nextRead n` is. -/
def State.devRead (n : Nat) (s : State) : State :=
  { s with
    env := { s.env with
      readAnswers := s.env.readAnswers.tail
      calls := s.env.calls ++ [.read n s.job.timeout] } }

/-! ## The end of a job and its re-arming -/

/-- The reset frame of an abort, one best-effort write whose outcome is ignored (60_exceptions.md R247). -/
def State.resetFrame (e : PrintError) (s : State) : State :=
  if needsReset s.params.cfg e s.ctl.jobState then s.devWrite (frameInit s.params.wire) else s

/-- The abort sequence, the counterpart of taking an exception (60_exceptions.md R246): the reset frame where it is
needed, then the record, the release of the handle, and `Failed`. The stage recorded is the one the error arose in. -/
def State.abort (e : PrintError) (s : State) : State :=
  let r := (s.resetFrame e).discardBuffers
  { r with
    res := { r.res with errCode := e.code, errStage := s.ctl.jobState.code, errInfo := e.info }
    ctl := { r.ctl with cancelPend := false, devOwn := false, jobState := .failed } }

/-- Entry to `Done` (45_protocol_decoder.md R190, 46_job_fsm.md R218, R222). -/
def State.enterDone (s : State) : State :=
  let r := s.discardBuffers
  { r with ctl := { r.ctl with cancelPend := false, devOwn := false, jobState := .done } }

/-- The effect of an accepted `START` (46_job_fsm.md R212). It is also what stands for a return from `Failed`:
nothing resumes, the record is cleared and the pipeline begins anew (60_exceptions.md R249). -/
def State.rearm (s : State) : State :=
  { s with
    res := { s.res with
      errCode := 0, errStage := 0, errInfo := 0, stFrame := .zero, stValid := false, outHeight := 0, nLines := 0 }
    ctl := { s.ctl with frameIdx := 0, awSub := false, cancelPend := false, devOwn := true, jobState := .scaling } }

/-- Hardware reset in any state (70_reset_and_hazards.md R270, R272): every piece of state takes its reset value and
nothing is sent. The environment goes on: what the host will do and LINK will answer is not the core's to reset;
`TX_LOG` restarts empty by definition, and `IMG` and the buffers are unspecified anew (log entry 17). -/
def State.hardwareReset (s : State) : State :=
  { State.resetWith s.params with
    env := { s.env with txLog := [], imgEpoch := s.env.imgEpoch + 1, bufEpoch := s.env.bufEpoch + 1 } }

/-! ## Host access to the register file (10_state.md R20, R21, R44) -/

/-- What a host read of a register returns; reading changes nothing, reserved numbers and `CTRL` read 0. -/
def State.readRegister (s : State) (number : Nat) : Word :=
  match number with
  | 0x01 => s.statusWord
  | 0x02 => s.ctl.frameIdx
  | 0x03 => s.errWord
  | 0x04 => s.res.errInfo
  | 0x05 => s.stFrameWord
  | 0x06 => s.job.imgWidth.setWidth 32
  | 0x07 => s.job.imgHeight.setWidth 32
  | 0x08 => (BitVec.ofBool s.job.rgb).setWidth 32
  | 0x09 => s.job.cfgWord
  | 0x0A => s.job.ditherBias.setWidth 32
  | 0x0B => s.job.timeout
  | 0x0C => s.res.outHeight.setWidth 32
  | 0x0D => s.res.nLines.setWidth 32
  | 0x10 => (BitVec.ofNat 16 s.params.cfg.width).setWidth 32
  | 0x11 => (BitVec.ofNat 16 s.params.cfg.head).setWidth 32
  | 0x12 => (BitVec.ofNat 16 s.params.cfg.maxLines).setWidth 32
  | 0x13 => (BitVec.ofNat 16 s.params.cfg.bytes).setWidth 32
  | 0x14 => (BitVec.ofNat 16 s.params.wire.statusLen).setWidth 32
  | _ => 0

/-- What a host write puts into the descriptor: the fields of the RW registers, reserved bits ignored; any other
register number (`CTRL` apart, which is a command) ignores the write (10_state.md R20, R21, R28 to R31). -/
def Job.writeRegister (j : Job) (number : Nat) (v : Word) : Job :=
  match number with
  | 0x06 => { j with imgWidth := v.extractLsb' 0 16 }
  | 0x07 => { j with imgHeight := v.extractLsb' 0 16 }
  | 0x08 => { j with rgb := v.getLsbD 0 }
  | 0x09 => { j with
      fitMode := fitModeOfBits (v.extractLsb' 0 2), align := alignOfBit (v.getLsbD 2), mediaId := v.extractLsb' 8 8 }
  | 0x0A => { j with ditherBias := v.extractLsb' 0 8 }
  | 0x0B => { j with timeout := v }
  | _ => j

/-- A host write to a register other than `CTRL`, under the busy lock (10_state.md R44). -/
def State.writeRegister (s : State) (number : Nat) (v : Word) : State :=
  if s.busy then s else { s with job := s.job.writeRegister number v }

/-- A host write to a `LUT` cell, under the busy lock (10_state.md R35, R44). -/
def State.writeLut (s : State) (i v : Byte) : State :=
  if s.busy then s else { s with lut := s.lut.put lutDefault i.toNat v }

/-- A host write to an `IMG` cell, under the busy lock (10_state.md R36, R44). A write to a cell beyond the largest
image that the 16-bit dimensions allow is dropped (DESIGN CHOICE, safe: log entry 8). -/
def State.writeImg (s : State) (a : Nat) (v : Byte) : State :=
  if s.busy = true ∨ imgSpace ≤ a then s else { s with img := s.img.put imgDefault a v }

/-- The value a host read returned. -/
def State.hostReads (s : State) (v : Word) : State := { s with env := { s.env with hostRd := v } }

/-- A host read of cell `index` of a space that has no such cell: it returns a free value, a new one each time, and
changes nothing of the core (70_reset_and_hazards.md R275, 60_exceptions.md R251; log entry 8). -/
def State.hostReadsAbsent (s : State) (index : Nat) : State :=
  { s with env := { s.env with
      hostRd := (Config.absentCell s.env.absentReads index).setWidth 32
      absentReads := s.env.absentReads + 1 } }

end Sys2Proof.Machine
end

