-- ==== Sys2Proof/Machine/Ditherer.lean ====
section
/-! DEFINITION. The Ditherer: `DITHER` (42_ditherer.md). All quantities are integers, in units of 1/DEN of a grey
level; no wrap-around or saturation occurs (42_ditherer.md R146). -/

namespace Sys2Proof.Machine

/-- The shares of a quantisation error: `(e × w) div DEN`, floored, for every tap but the last, which takes the
remainder (42_ditherer.md R144). -/
def shares (k : DiffusionKernel) (e : Int) : List Int :=
  let p := k.taps.dropLast.map fun t => (e * t.weight) / k.den
  p ++ [e - p.sum]

/-- Add one share to the accumulator, or drop it outside the buffer (42_ditherer.md R144, R145). -/
def deposit (width height x y : Nat) (acc : List (List Int)) (share : Tap × Int) : List (List Int) :=
  let xx := (x : Int) + share.1.dx
  if 0 ≤ xx ∧ xx < width ∧ y + share.1.dy < height then
    acc.modify share.1.dy fun row => row.modify xx.toNat fun a => a + share.2
  else acc

/-- The corrected value `v = DEN × GRAY[y][x] + ACC[0][x]` (42_ditherer.md R144). -/
def correctedValue (k : DiffusionKernel) (acc : List (List Int)) (x : Nat) (g : Byte) : Int :=
  k.den * g.toNat + (acc.headD []).getD x 0

/-- One pixel: its bit (black where the corrected value is below the threshold) and the accumulator after its error is
diffused (42_ditherer.md R143, R144). -/
def ditherPixel (k : DiffusionKernel) (t : Int) (width height x y : Nat) (acc : List (List Int)) (g : Byte) :
    Bool × List (List Int) :=
  let v := correctedValue k acc x g
  let black := decide (v < k.den * t)
  let e := v - (if black then 0 else k.den * 255)
  (black, (k.taps.zip (shares k e)).foldl (deposit width height x y) acc)

/-- The pixels of a row from column `x` on, left to right (42_ditherer.md R144). -/
def ditherRow (k : DiffusionKernel) (t : Int) (width height y : Nat) :
    Nat → List (List Int) → List Byte → List Bool × List (List Int)
  | _, acc, [] => ([], acc)
  | x, acc, g :: gs =>
    let p := ditherPixel k t width height x y acc g
    let rest := ditherRow k t width height y (x + 1) p.2 gs
    (p.1 :: rest.1, rest.2)

/-- The accumulator moves on to the next row (42_ditherer.md R144). -/
def nextRow (width : Nat) (acc : List (List Int)) : List (List Int) := acc.tail ++ [List.replicate width 0]

/-- The rows from `y` on, top to bottom (42_ditherer.md R144). -/
def ditherRows (k : DiffusionKernel) (t : Int) (width height : Nat) :
    Nat → List (List Int) → List (List Byte) → List Bool × List (List Int)
  | _, acc, [] => ([], acc)
  | y, acc, row :: rows =>
    let r := ditherRow k t width height y 0 acc row
    let rest := ditherRows k t width height (y + 1) (nextRow width r.2) rows
    (r.1 ++ rest.1, rest.2)

/-- The accumulator at the start: `KROWS` rows of `W` zeros (10_state.md R39, 42_ditherer.md R144). -/
def zeroAcc (k : DiffusionKernel) (width : Nat) : List (List Int) :=
  List.replicate k.rows (List.replicate width 0)

/-- The whole algorithm: the cells of `MONO` and the accumulator it leaves, from the cells of `GRAY`
(42_ditherer.md R144, R147). -/
def ditherImage (k : DiffusionKernel) (t : Int) (width height : Nat) (gray : List Byte) :
    List Bool × List (List Int) :=
  ditherRows k t width height 0 (zeroAcc k width) (splitRows width height gray)

/-- `DITHER` on a state (42_ditherer.md R140). What it leaves in `ACC` is unspecified (10_state.md R39); the model keeps
the values the algorithm ends with (log entry 10). -/
def State.dither (s : State) : State :=
  let w := s.params.cfg.width
  let h := s.res.outHeight.toNat
  let r := ditherImage s.params.kernel s.job.threshold w h (s.grayCells (h * w))
  { s with
    buf := { s.buf with mono := r.1, acc := r.2 }
    ctl := { s.ctl with jobState := .packing } }

/-- `DITHER` (42_ditherer.md R140): no error condition. -/
def execDither (s : State) : Host.Outcome State Fault Refusal := .next s.dither

end Sys2Proof.Machine
end

