-- ==== Sys2Proof/Machine/Encoder.lean ====
section
/-! DEFINITION. The ProtocolEncoder: `ENCODE`, `TX` and `STATREQ.op` (44_protocol_encoder.md), with the byte-serial
form of a frame. -/

namespace Sys2Proof.Machine

/-- The lines of `RASTER` (10_state.md R38, 20_memory.md R63). -/
def State.rasterLines (s : State) : List (List Byte) :=
  splitRows s.params.cfg.bytes s.res.nLines.toNat (s.rasterCells (s.res.nLines.toNat * s.params.cfg.bytes))

/-- The frames of a job in the fixed order INIT, MEDIA, one RASTER per line, PRINT (44_protocol_encoder.md R170,
R171). -/
def buildQueue (w : Wire) (id : Byte) (n : Nat) (lines : List (List Byte)) : List (List Byte) :=
  frameInit w :: frameMedia w id n :: (lines.map (frameRaster w) ++ [framePrint w])

/-- `ENCODE` on a state (44_protocol_encoder.md R170). -/
def State.encodeFrames (s : State) : State :=
  { s with
    buf := { s.buf with txq := buildQueue s.params.wire s.job.mediaId s.res.nLines.toNat s.rasterLines }
    ctl := { s.ctl with frameIdx := 0, awSub := false, jobState := .transferring } }

/-- `ENCODE` (44_protocol_encoder.md R170): no error condition. -/
def execEncode (s : State) : Host.Outcome State Fault Refusal := .next s.encodeFrames

/-- Byte `k` of frame `i` of a job without a queue, as a packetizer streams it from the raster lines
(44_protocol_encoder.md R179). -/
def serialFrameByte (w : Wire) (id : Byte) (n : Nat) (lines : List (List Byte)) (i k : Nat) : Option Byte :=
  if i = 0 then w.initBytes[k]?
  else if i = 1 then (w.mediaTag ++ id :: fieldBytes n w.lenWidth w.lenOrder)[k]?
  else if i = lines.length + 2 then w.printBytes[k]?
  else
    match lines[i - 2]? with
    | none => none
    | some row =>
      let header := w.rasterTag ++ fieldBytes row.length w.rlenWidth w.lenOrder
      if k < header.length then header[k]? else row[k - header.length]?

/-! ## Sending -/

/-- What `TX` does once a frame has been written with `Ok` (44_protocol_encoder.md R177). -/
def State.frameSent (s : State) : State :=
  let idx := s.ctl.frameIdx + 1
  if idx.toNat = s.buf.txq.length then
    let r := s.discardSent
    { r with ctl := { r.ctl with frameIdx := idx, jobState := .awaitingStatus } }
  else { s with ctl := { s.ctl with frameIdx := idx, jobState := .transferring } }

/-- One frame in one `DevWrite`, and what its answer leads to: the next frame, `AwaitingStatus`, or the abort
sequence; a failed write is never repeated (44_protocol_encoder.md R177, R178). -/
def State.transmit (f : List Byte) (s : State) : State :=
  match s.nextWrite with
  | .ok => (s.devWrite f).frameSent
  | .ioError code _ => (s.devWrite f).abort (.ioError code)
  | .timeout _ => (s.devWrite f).abort .deviceTimeout

/-- `TX` (44_protocol_encoder.md R177): the frame at `TXQ[FRAME_IDX]`. -/
def execTx (s : State) : Host.Outcome State Fault Refusal :=
  match s.buf.txq[s.ctl.frameIdx.toNat]? with
  | some f => .next (s.transmit f)
  | none => .fault .txqIndexOutsideQueue

/-- The StatusRequest frame in one `DevWrite`, and what its answer leads to (44_protocol_encoder.md R180). -/
def State.requestStatus (f : List Byte) (s : State) : State :=
  match s.nextWrite with
  | .ok =>
    let r := s.devWrite f
    { r with ctl := { r.ctl with awSub := true, jobState := .awaitingStatus } }
  | .ioError code _ => (s.devWrite f).abort (.ioError code)
  | .timeout _ => (s.devWrite f).abort .deviceTimeout

/-- `STATREQ.op` (44_protocol_encoder.md R180). -/
def execStatreqOp (s : State) : Host.Outcome State Fault Refusal :=
  .next (s.requestStatus (frameStatreq s.params.wire))

end Sys2Proof.Machine
end

