-- ==== Sys2Proof/Machine/StatusReply.lean ====
section
/-! DEFINITION. The ProtocolDecoder: `STATUS.op` (45_protocol_decoder.md), with the byte-serial parser. -/

namespace Sys2Proof.Machine

/-! ## The parser as a finite-state machine (45_protocol_decoder.md R199) -/

/-- `RX_STATE`, `RX_CNT` and `RXBUF`. -/
structure Parser where
  state : RxState
  cnt : Nat
  buf : List Byte
  deriving DecidableEq, Repr

/-- The start of `STATUS`. -/
def Parser.start : Parser := ⟨.collect, 0, []⟩

/-- Input `byte(v)`; with `RX_CNT = STATUS_LEN` it cannot occur. -/
def Parser.byte (w : Wire) (p : Parser) (v : Byte) : Parser :=
  if p.cnt < w.statusLen then { p with cnt := p.cnt + 1, buf := p.buf ++ [v] } else p

/-- Input `end`: the verdict. -/
def Parser.finish (w : Wire) (p : Parser) : Parser :=
  if p.cnt < w.statusLen then { p with state := .short }
  else if w.statusCheck.holds p.buf then { p with state := .ok }
  else { p with state := .badCheck }

/-- A whole burst, byte by byte, then `end`. -/
def parseBurst (w : Wire) (burst : List Byte) : Parser := (burst.foldl (Parser.byte w) Parser.start).finish w

/-! ## STATUS.op -/

/-- What the core does with the burst it read (45_protocol_decoder.md R190 to R200): the length test, the check test,
the decoding, the verdict. Writes made before an error is raised stand. -/
def State.receiveReply (burst : List Byte) (s : State) : State :=
  let w := s.params.wire
  let r := { s with buf := { s.buf with rxbuf := burst }, ser := { s.ser with rxCnt := burst.length } }
  if burst.length < w.statusLen then
    State.abort .malformedStatus { r with ser := { r.ser with rxState := .short } }
  else if w.statusCheck.holds burst = false then
    State.abort .malformedStatus { r with ser := { r.ser with rxState := .badCheck } }
  else
    let f := decodeStatus w burst
    let d := { r with
      ser := { r.ser with rxState := .ok }
      res := { r.res with stFrame := f, stRaw := burst, stValid := true } }
    if f.flags.any then d.abort (.deviceReportedFault f.flags) else d.enterDone

/-- The parser at the start of `STATUS` (45_protocol_decoder.md R199). -/
def State.startParser (s : State) : State := { s with ser := { s.ser with rxState := .collect, rxCnt := 0 } }

/-- The one `DevRead` of a job and what its answer leads to (45_protocol_decoder.md R190, decision D43). -/
def State.readStatus (s : State) : State :=
  let n := s.params.wire.statusLen
  let r := (s.startParser).devRead n
  match s.nextRead n with
  | .ok burst => r.receiveReply burst
  | .ioError code => r.abort (.ioError code)
  | .timeout => r.abort .deviceTimeout

/-- `STATUS.op` (45_protocol_decoder.md R190). -/
def execStatusOp (s : State) : Host.Outcome State Fault Refusal := .next s.readStatus

end Sys2Proof.Machine
end

