-- ==== Sys2Proof/Machine/Frames.lean ====
section
/-! DEFINITION. The frames as instructions (00_scope.md R2 (c)). A command frame means its transmission by the core
step that sends it: `TX` for INIT, MEDIA, RASTER and PRINT, `STATREQ.op` for STATREQ (log entry 11). The status reply
means what the core does when it receives it (log entry 12). -/

namespace Sys2Proof.Machine

/-- INIT, Initialize (44_protocol_encoder.md R172, R177). -/
def execInit (s : State) : Host.Outcome State Fault Refusal := .next (s.transmit (frameInit s.params.wire))

/-- MEDIA, SetMediaParameters (44_protocol_encoder.md R173, R177). -/
def execMedia (id : Byte) (length : Nat) (s : State) : Host.Outcome State Fault Refusal :=
  .next (s.transmit (frameMedia s.params.wire id length))

/-- RASTER, TransferRasterLine (44_protocol_encoder.md R174, R177). -/
def execRaster (line : List Byte) (s : State) : Host.Outcome State Fault Refusal :=
  .next (s.transmit (frameRaster s.params.wire line))

/-- PRINT, PrintAndEject (44_protocol_encoder.md R175, R177). -/
def execPrint (s : State) : Host.Outcome State Fault Refusal := .next (s.transmit (framePrint s.params.wire))

/-- STATREQ, StatusRequest (44_protocol_encoder.md R176, R180). -/
def execStatreq (s : State) : Host.Outcome State Fault Refusal :=
  .next (s.requestStatus (frameStatreq s.params.wire))

/-- STATUS, the status reply: the one `DevRead` of the job, answered with this reply, of which LINK delivers at most
`STATUS_LEN` bytes, and what the core does with it (45_protocol_decoder.md R190, R193, 20_memory.md R77; log entry
12). -/
def execStatus (reply : List Byte) (s : State) : Host.Outcome State Fault Refusal :=
  let n := s.params.wire.statusLen
  .next ((s.startParser.devRead n).receiveReply (reply.take n))

end Sys2Proof.Machine
end

