-- ==== Sys2Proof/Machine/Gamma.lean ====
section
/-! DEFINITION. The GammaCorrector: `GAMMA`, with luminance reduction (41_gamma.md). -/

namespace Sys2Proof.Machine

/-- `Luma(r, g, b)` (41_gamma.md R131). -/
def luma (r g b : Byte) : Byte :=
  BitVec.ofNat 8 ((299 * r.toNat + 587 * g.toNat + 114 * b.toNat + 500) / 1000)

/-- The luminances of interleaved RGB pixels, in order (41_gamma.md R130, 20_memory.md R62). -/
def lumaCells : List Byte → List Byte
  | r :: g :: b :: rest => luma r g b :: lumaCells rest
  | _ => []

/-- The luminance image: RGB is reduced, one channel is taken as it is (41_gamma.md R130, R131). -/
def luminances (rgb : Bool) (cells : List Byte) : List Byte := if rgb then lumaCells cells else cells

/-- `GAMMA` on a state (41_gamma.md R130): each luminance replaced by its table entry. -/
def State.gamma (s : State) : State :=
  let pixels := s.res.outHeight.toNat * s.params.cfg.width
  { s with
    buf := { s.buf with
      gray := (luminances s.job.rgb (s.scaledCells (pixels * s.job.channels))).map fun y => s.lutCell y.toNat }
    ctl := { s.ctl with jobState := .dithering } }

/-- `GAMMA` (41_gamma.md R130): no error condition. -/
def execGamma (s : State) : Host.Outcome State Fault Refusal := .next s.gamma

end Sys2Proof.Machine
end

