-- ==== Sys2Proof/Machine/HostCommands.lean ====
section
/-! DEFINITION. The host commands `START`, `CANCEL` and `CLR_BUSY` (46_job_fsm.md R212 to R215). -/

namespace Sys2Proof.Machine

/-- `START`: accepted when not busy, else rejected with the sticky `BUSY_REJECT` and nothing else changed
(46_job_fsm.md R212, R213). -/
def execStart (s : State) : Host.Outcome State Fault Refusal :=
  .next (if s.busy then { s with ctl := { s.ctl with busyReject := true } } else s.rearm)

/-- `CANCEL`: latched while busy, ignored otherwise (46_job_fsm.md R214). -/
def execCancel (s : State) : Host.Outcome State Fault Refusal :=
  .next (if s.busy then { s with ctl := { s.ctl with cancelPend := true } } else s)

/-- `CLR_BUSY` (46_job_fsm.md R215). -/
def execClrBusy (s : State) : Host.Outcome State Fault Refusal :=
  .next { s with ctl := { s.ctl with busyReject := false } }

end Sys2Proof.Machine
end

