-- ==== Sys2Proof/Machine/Packer.lean ====
section
/-! DEFINITION. The RasterPacker: `PACK` (43_packer.md), with its bit-serial form. -/

namespace Sys2Proof.Machine

/-- `dot(p)`: the image pixel at head position `p`, white outside the image (43_packer.md R160). -/
def dot (m : List Bool) (off p : Nat) : Bool :=
  if off ≤ p ∧ p < off + m.length then m.getD (p - off) false else false

/-- Byte `i` of a packed line: position `8·i + j` is bit `7 − j` (43_packer.md R160, 20_memory.md R63). -/
def packByte (m : List Bool) (off i : Nat) : Byte :=
  BitVec.ofNat 8 (sumTo 8 fun j => (dot m off (8 * i + j)).toNat * 2 ^ (7 - j))

/-- `PackLine(m, off)` (43_packer.md R160). -/
def packLine (bytes : Nat) (m : List Bool) (off : Nat) : List Byte := (List.range bytes).map (packByte m off)

/-- `Unpack(line, off)` (43_packer.md R162). -/
def unpack (width : Nat) (line : List Byte) (off : Nat) : List Bool :=
  (List.range width).map fun x => (line.getD ((off + x) / 8) 0).getLsbD (7 - (off + x) % 8)

/-! ## The bit-serial form (43_packer.md R161) -/

/-- `SR`, `BC` and the bytes emitted so far. -/
structure SerialPacker where
  sr : Byte
  bc : BitVec 3
  out : List Byte
  deriving DecidableEq, Repr

/-- One dot: shift it in, count it, emit the byte when the counter wraps. -/
def SerialPacker.shift (p : SerialPacker) (d : Bool) : SerialPacker :=
  let sr := (p.sr <<< 1) ||| (BitVec.ofBool d).setWidth 8
  let bc := p.bc + 1
  { sr := sr, bc := bc, out := if bc = 0 then p.out ++ [sr] else p.out }

/-- The end of a line: zero fill to the byte boundary. -/
def SerialPacker.finish (p : SerialPacker) : SerialPacker :=
  if p.bc = 0 then p
  else
    let sr := p.sr <<< (8 - p.bc.toNat)
    { sr := sr, bc := 0, out := p.out ++ [sr] }

/-- One line, dot by dot over the head positions. -/
def packLineSerial (head : Nat) (m : List Bool) (off : Nat) : SerialPacker :=
  ((List.range head).foldl (fun (p : SerialPacker) i => p.shift (dot m off i)) ⟨0, 0, []⟩).finish

/-! ## PACK -/

/-- The number of lines: rows beyond the maximum media length are not emitted (43_packer.md R156). -/
def State.packCount (s : State) : Nat := min s.res.outHeight.toNat s.params.cfg.maxLines

/-- The image rows that `PACK` emits, in image order (43_packer.md R156). -/
def State.packRows (s : State) : List (List Bool) :=
  splitRows s.params.cfg.width s.packCount (s.monoCells (s.packCount * s.params.cfg.width))

/-- The serial registers after the lines of `PACK`: those of the last line (43_packer.md R161; log entry 9). -/
def State.packSerial (s : State) (off : Nat) : SerialPacker :=
  s.packRows.foldl (fun _ m => packLineSerial s.params.cfg.head m off) ⟨s.ser.sr, s.ser.bc, []⟩

/-- `PACK` on a state (43_packer.md R155); nothing is written when `RowTooWide` is raised. -/
def State.pack (s : State) : State :=
  if s.params.cfg.width > s.params.cfg.head then s.abort .rowTooWide
  else
    let off := alignOffset s.params.cfg s.job.align
    let p := s.packSerial off
    { s with
      buf := { s.buf with raster := (s.packRows.map fun m => packLine s.params.cfg.bytes m off).flatten }
      ser := { s.ser with sr := p.sr, bc := p.bc }
      res := { s.res with nLines := BitVec.ofNat 16 s.packCount }
      ctl := { s.ctl with jobState := .encoding } }

/-- `PACK` (43_packer.md R155). -/
def execPack (s : State) : Host.Outcome State Fault Refusal := .next s.pack

end Sys2Proof.Machine
end

