-- ==== Sys2Proof/Machine/Scaler.lean ====
section
/-! DEFINITION. The Scaler: `SCALE` (40_scaler.md). -/

namespace Sys2Proof.Machine

/-- `ovl(i, I, n, No)`: the overlap of source cell `i` with output cell `o`, in units of 1/(n·No) of the axis
(40_scaler.md R119). -/
def overlap (i o n no : Nat) : Nat := min ((i + 1) * no) ((o + 1) * n) - max (i * no) (o * n)

/-- `Resample(src, w, h, CH, Wo, Ho)[Y][X]` for one channel `src y x`: the exact area average (40_scaler.md R119). -/
def resample (src : Nat → Nat → Nat) (w h wo ho Y X : Nat) : Nat :=
  rhu (sumTo h fun y => sumTo w fun x => src y x * overlap x X w wo * overlap y Y h ho) (w * h)

/-- How the image is fitted (40_scaler.md R115, R118). -/
inductive Geometry where
  | plain (height : Nat)
  | crop (computed : Nat)
  | pad
  deriving DecidableEq, Repr

/-- The computed height `Hc = rhu(h × W, w)` (40_scaler.md R117). -/
def computedHeight (c : Cfg) (w h : Nat) : Nat := rhu (h * c.width) w

/-- The width of the inner image under `pad`: `Wi = min(W, max(1, rhu(w × MAX_LINES, h)))` (40_scaler.md R118). -/
def padInnerWidth (c : Cfg) (w h : Nat) : Nat := min c.width (max 1 (rhu (w * c.maxLines) h))

/-- The geometry of a non-empty image, or the error that rejects it (40_scaler.md R115). -/
def chooseGeometry (c : Cfg) (fit : FitMode) (w h : Nat) : Except PrintError Geometry :=
  let hc := computedHeight c w h
  if hc > c.maxLines then
    match fit with
    | .rejectOversized => .error .imageTooLarge
    | .crop => .ok (.crop hc)
    | .pad => .ok .pad
  else .ok (.plain (max 1 hc))

/-- The height of the rendered image (40_scaler.md R120). -/
def Geometry.height (c : Cfg) : Geometry → Nat
  | .plain h => h
  | .crop _ => c.maxLines
  | .pad => c.maxLines

/-- The sample at column `X`, row `Y` of the rendered image, for one channel `src y x` (40_scaler.md R120). Canvas
samples outside the inner image of `pad` are white, 255. -/
def renderSample (c : Cfg) (g : Geometry) (src : Nat → Nat → Nat) (w h Y X : Nat) : Nat :=
  match g with
  | .plain ho => resample src w h c.width ho Y X
  | .crop hc => resample src w h c.width hc Y X
  | .pad =>
    let wi := padInnerWidth c w h
    let off := (c.width - wi) / 2
    if off ≤ X ∧ X < off + wi then resample src w h wi c.maxLines Y (X - off) else 255

/-- The input sample of channel `k` of pixel (x, y) (40_scaler.md R119, 20_memory.md R62). -/
def State.source (s : State) (k y x : Nat) : Nat :=
  (s.imgCell (cellIndex s.job.imgWidth.toNat s.job.channels x y k)).toNat

/-- The cells of `SCALED`: width `W`, the geometry's height, `CH` channels, in the layout of 20_memory.md R62
(40_scaler.md R120, R121). -/
def State.render (s : State) (g : Geometry) : List Byte :=
  let c := s.params.cfg
  let ch := s.job.channels
  (List.range (g.height c * c.width * ch)).map fun cell =>
    BitVec.ofNat 8 (renderSample c g (s.source (cell % ch)) s.job.imgWidth.toNat s.job.imgHeight.toNat
      (cell / ch / c.width) (cell / ch % c.width))

/-- `SCALE` on a state (40_scaler.md R115): `EmptyImage` before `ImageTooLarge`, and nothing written when either is
raised. -/
def State.scale (s : State) : State :=
  if s.job.imgWidth = 0 ∨ s.job.imgHeight = 0 then s.abort .emptyImage
  else
    match chooseGeometry s.params.cfg s.job.fitMode s.job.imgWidth.toNat s.job.imgHeight.toNat with
    | .error e => s.abort e
    | .ok g =>
      { s with
        buf := { s.buf with scaled := s.render g }
        res := { s.res with outHeight := BitVec.ofNat 16 (g.height s.params.cfg) }
        ctl := { s.ctl with jobState := .correctingGamma } }

/-- `SCALE` (40_scaler.md R115). -/
def execScale (s : State) : Host.Outcome State Fault Refusal := .next s.scale

end Sys2Proof.Machine
end

