-- ==== Sys2Proof/Machine/Dispatch.lean ====
section
/-! DEFINITION. One arm per constructor of Instr: each a direct call of its meaning. -/

namespace Sys2Proof.Machine

def exec (i : Instr) (s : State) : Host.Outcome State Fault Refusal :=
  match i with
  | .scale => Sys2Proof.Machine.execScale s
  | .gamma => Sys2Proof.Machine.execGamma s
  | .dither => Sys2Proof.Machine.execDither s
  | .pack => Sys2Proof.Machine.execPack s
  | .encode => Sys2Proof.Machine.execEncode s
  | .tx => Sys2Proof.Machine.execTx s
  | .statreqOp => Sys2Proof.Machine.execStatreqOp s
  | .statusOp => Sys2Proof.Machine.execStatusOp s
  | .start => Sys2Proof.Machine.execStart s
  | .cancel => Sys2Proof.Machine.execCancel s
  | .clrBusy => Sys2Proof.Machine.execClrBusy s
  | .init => Sys2Proof.Machine.execInit s
  | .media id length => Sys2Proof.Machine.execMedia id length s
  | .raster line => Sys2Proof.Machine.execRaster line s
  | .print => Sys2Proof.Machine.execPrint s
  | .statreq => Sys2Proof.Machine.execStatreq s
  | .status reply => Sys2Proof.Machine.execStatus reply s

end Sys2Proof.Machine
end

