-- ==== Sys2Proof/Machine/Fetch.lean ====
section
/-! DEFINITION. Who moves next and what it runs: the core step (46_job_fsm.md R217), the host steps (R211), their
interleaving by the schedule (R219), and the placing of a word of spec/opcode_table.json where the next step runs
it. -/

namespace Sys2Proof.Machine

/-- The core step: the cancellation test, once, before the operation; then the operation the control position selects;
no step when the core is not busy (46_job_fsm.md R217). -/
def coreStep (s : State) : Host.Outcome State Fault Refusal :=
  if s.busy = false then .next s
  else if s.ctl.cancelPend then
    .next (State.abort .cancelled { s with ctl := { s.ctl with cancelPend := false } })
  else
    match decodePosition s.position with
    | .ok i => exec i s
    | .error _ => .next s

/-- Several instructions one after another, stopping where one does not give a next state. -/
def execAll : List Instr → State → Host.Outcome State Fault Refusal
  | [], s => .next s
  | i :: is, s =>
    match exec i s with
    | .next s' => execAll is s'
    | .fault r => .fault r
    | .refused r => .refused r

/-- One event (46_job_fsm.md R211): a write to `CTRL` performs its commands in order; any other access reads or writes
one register or cell. Every host access in every state leads on (70_reset_and_hazards.md R275). -/
def perform (e : Event) (s : State) : Host.Outcome State Fault Refusal :=
  match e with
  | .core => coreStep s
  | .writeReg number v => if number = 0 then execAll (decodeCtrl v) s else .next (s.writeRegister number v)
  | .readReg number => .next (s.hostReads (s.readRegister number))
  | .writeLut i v => .next (s.writeLut i v)
  | .readLut i => .next (s.hostReads ((s.lutCell i.toNat).setWidth 32))
  | .writeImg a v => .next (s.writeImg a v)
  | .readImg a => .next (if a < imgSpace then s.hostReads ((s.imgCell a).setWidth 32) else s.hostReadsAbsent a)
  | .readStRaw i =>
    .next (if i < s.params.wire.statusLen then s.hostReads ((s.stRawCell i).setWidth 32) else s.hostReadsAbsent i)
  | .hardwareReset => .next s.hardwareReset

/-- The state with its first scheduled event taken off. -/
def State.popEvent (s : State) : State := { s with env := { s.env with schedule := s.env.schedule.tail } }

/-- The event that happens next: the first scheduled one, else a core step. -/
def State.nextEvent (s : State) : Event := s.env.schedule.headD .core

/-- One step of the whole machine (46_job_fsm.md R219; log entry 3). -/
def stepNext (s : State) : Host.Outcome State Fault Refusal := perform s.nextEvent s.popEvent

/-! ## Placing a word -/

/-- The state with an event put first in the schedule. -/
def State.scheduleFirst (e : Event) (s : State) : State :=
  { s with env := { s.env with schedule := e :: s.env.schedule } }

/-- The state in which the next step is a core step at a control position: busy, owning the handle (46_job_fsm.md
R221), with no cancellation pending. -/
def State.atPosition (j : JobState) (aw : Bool) (s : State) : State :=
  { s with ctl := { s.ctl with jobState := j, awSub := aw, devOwn := j.busy, cancelPend := false } }.scheduleFirst .core

/-- `TX` has an operand, the frame at `TXQ[FRAME_IDX]` (44_protocol_encoder.md R177). Where a state has none, placing
`TX` supplies one, the Initialize frame every job begins with (log entry 15). -/
def State.withFrame (s : State) : State :=
  match s.buf.txq[s.ctl.frameIdx.toNat]? with
  | some _ => s
  | none => { s with buf := { s.buf with txq := [frameInit s.params.wire] }, ctl := { s.ctl with frameIdx := 0 } }

/-- The state in which the next step runs the operation at a control position. -/
def State.placePosition (s : State) (cp : BitVec 5) : State :=
  let j := (jobStateOfCode (cp.extractLsb' 1 4).toNat).getD .idle
  let r := if j = .transferring then s.withFrame else s
  r.atPosition j (cp.getLsbD 0)

/-- The state whose next step runs an encoded instruction (log entries 13, 15): a control position is taken up, a
`CTRL` value is the next host write, a command frame is the next frame of the queue (the StatusRequest frame is the
one `STATREQ.op` writes), a reply is LINK's next answer. -/
def State.place (s : State) : Encoding → State
  | .position cp => s.placePosition cp
  | .ctrl v => s.scheduleFirst (.writeReg 0 v)
  | .frame bs =>
    if bs = frameStatreq s.params.wire then s.atPosition .awaitingStatus false
    else
      State.atPosition .transferring s.ctl.awSub
        { s with buf := { s.buf with txq := [bs] }, ctl := { s.ctl with frameIdx := 0 } }
  | .reply bs =>
    State.atPosition .awaitingStatus true
      { s with env := { s.env with readAnswers := .ok bs :: s.env.readAnswers } }

/-- The state whose next step runs a word of spec/opcode_table.json. -/
def State.placeWord (s : State) (nbits w : Nat) : State := s.place (tableEncoding nbits w)

end Sys2Proof.Machine
end

