-- ==== Sys2Proof/Machine/Step.lean ====
section
/-! DEFINITION. One step of the machine, and the placing of a word where that step runs it. -/

namespace Sys2Proof.Machine

/-- One step: the next event of the schedule, a core step when there is none (46_job_fsm.md R217, R219). -/
def step (s : State) : Host.Outcome State Fault Refusal := stepNext s

/-- The state whose next step runs the instruction of a word of spec/opcode_table.json. -/
def State.withFetchWord (s : State) (nbits w : Nat) : State := s.placeWord nbits w

end Sys2Proof.Machine
end

