-- ==== Sys2Proof/Machine/Print.lean ====
section
/-! DEFINITION. `print(image, config)`, the pseudo-instruction of the host (30_encoding.md R101): one call of it as a
host program beside the machine, with the error `PrinterBusy` of a rejected call (60_exceptions.md R250). A call makes
one host access a turn; between its turns anything else may happen, core steps above all. -/

namespace Sys2Proof.Machine

/-- The arguments of `print` (30_encoding.md R101): a decoded image and the configuration, with the gamma table the
host computed (41_gamma.md R133) and the alignment, which is the platform's choice. -/
structure PrintArgs where
  width : BitVec 16
  height : BitVec 16
  rgb : Bool
  samples : List Byte
  table : List Byte
  bias : Option (BitVec 8)
  fitMode : FitMode
  align : Align
  mediaId : Byte
  timeout : Word
  deriving DecidableEq, Repr

/-- The host writes of `print(image, config)` before `START`, in order (30_encoding.md R101). -/
def printWrites (a : PrintArgs) : List Event :=
  [.writeReg 0x06 (a.width.setWidth 32), .writeReg 0x07 (a.height.setWidth 32),
    .writeReg 0x08 ((BitVec.ofBool a.rgb).setWidth 32)]
  ++ (List.range a.samples.length).map (fun i => .writeImg i (a.samples.getD i 0))
  ++ (List.range 256).map (fun i => .writeLut (BitVec.ofNat 8 i) (a.table.getD i 0))
  ++ [.writeReg 0x0A ((a.bias.getD 0).setWidth 32),
    .writeReg 0x09 (Job.cfgWord { Job.reset with fitMode := a.fitMode, align := a.align, mediaId := a.mediaId }),
    .writeReg 0x0B a.timeout]

/-- What a call of `print` returns (30_encoding.md R101, 46_job_fsm.md R216). -/
inductive PrintResult where
  /-- `Ok(ST_FRAME)`, as the register reads. -/
  | ok (stFrame : Word)
  /-- `Err(ERR_CODE, ERR_STAGE, ERR_INFO)`. -/
  | failed (code : BitVec 8) (stage : BitVec 4) (info : Word)
  /-- `PrinterBusy`: the call's `START` was rejected (60_exceptions.md R250). -/
  | printerBusy
  deriving DecidableEq, Repr

/-- The error code a call reports, if it reports an error: `PrinterBusy` is 0x23, which is never in `ERR_CODE`
(60_exceptions.md R241, R250). -/
def PrintResult.errorCode : PrintResult → Option (BitVec 8)
  | .ok _ => none
  | .failed code _ _ => some code
  | .printerBusy => some printerBusyCode

/-- How far a call has come. -/
inductive PrintPhase where
  /-- Waiting until the core is not busy, or taking `PrinterBusy`. -/
  | wait
  /-- Writing: the writes left before `START`; with none left, `START` is due. -/
  | load (left : List Event)
  /-- Polling `STATUS` until `Done` or `Failed`. -/
  | poll
  /-- `Done`: reading `ST_FRAME`. -/
  | takeFrame
  /-- `Failed`: reading `ERR`. -/
  | takeErr
  /-- `Failed`: reading `ERR_INFO`, with the value read from `ERR`. -/
  | takeInfo (err : Word)
  /-- The call has returned. -/
  | returned (result : PrintResult)
  deriving DecidableEq, Repr

/-- One call of `print`. `blocks` says which of the two permitted behaviours the host takes when the core is busy: to
wait, or to take `PrinterBusy` (30_encoding.md R101, 46_job_fsm.md R213). -/
structure PrintCall where
  args : PrintArgs
  blocks : Bool
  phase : PrintPhase
  deriving DecidableEq, Repr

/-- The call takes `PrinterBusy` in place of waiting: its `START` comes while the core is busy, so that it is rejected
(60_exceptions.md R250). The spec is silent on a running job that ends between the call's finding the core busy and its
`START`. In the model the two are one turn, so such a `START` is never accepted, and no job starts without the call's
writes (DESIGN CHOICE: log entry 24). -/
def PrintCall.takesBusy (c : PrintCall) (s : State) : Bool := s.busy && !c.blocks

/-- The host access that a call makes in its next turn, in state `s`; a call that has returned makes none. `START` is
written only after all of the call's writes, or where it is rejected. -/
def PrintCall.access (c : PrintCall) (s : State) : Option Event :=
  match c.phase with
  | .wait => some (if c.takesBusy s then .writeReg 0x00 1 else .readReg 0x01)
  | .load [] => some (.writeReg 0x00 1)
  | .load (e :: _) => some e
  | .poll => some (.readReg 0x01)
  | .takeFrame => some (.readReg 0x05)
  | .takeErr => some (.readReg 0x03)
  | .takeInfo _ => some (.readReg 0x04)
  | .returned _ => none

/-- Where the poll of `STATUS` leads: on `Done` the frame is read, on `Failed` the record (30_encoding.md R101). -/
def JobState.polled : JobState → PrintPhase
  | .done => .takeFrame
  | .failed => .takeErr
  | .idle => .poll
  | .scaling => .poll
  | .correctingGamma => .poll
  | .dithering => .poll
  | .packing => .poll
  | .encoding => .poll
  | .transferring => .poll
  | .awaitingStatus => .poll

/-- Where a call stands after its access, made in state `s` (30_encoding.md R101). That a call knows whether its own
`START` was rejected, which the sticky `BUSY_REJECT` reports, is DESIGN CHOICE (log entry 24). -/
def PrintCall.advance (c : PrintCall) (s : State) : PrintPhase :=
  match c.phase with
  | .wait =>
    if c.takesBusy s then .returned .printerBusy else if s.busy then .wait else .load (printWrites c.args)
  | .load [] => if s.busy then .returned .printerBusy else .poll
  | .load (_ :: left) => .load left
  | .poll => s.ctl.jobState.polled
  | .takeFrame => .returned (.ok (s.readRegister 0x05))
  | .takeErr => .takeInfo (s.readRegister 0x03)
  | .takeInfo err => .returned (.failed (err.extractLsb' 0 8) (err.extractLsb' 8 4) (s.readRegister 0x04))
  | .returned r => .returned r

/-- Whose turn it is: the call's, or another event's. -/
inductive PrintTurn where
  | call
  | other (e : Event)
  deriving DecidableEq, Repr

/-- One turn of a machine with a call of `print` in progress. -/
def printTurn (turn : PrintTurn) (c : PrintCall) (s : State) : Host.Outcome (PrintCall × State) Fault Refusal :=
  let move (e : Event) (c' : PrintCall) : Host.Outcome (PrintCall × State) Fault Refusal :=
    match perform e s with
    | .next t => .next (c', t)
    | .fault r => .fault r
    | .refused r => .refused r
  match turn with
  | .other e => move e c
  | .call =>
    match c.access s with
    | none => .next (c, s)
    | some e => move e { c with phase := c.advance s }

/-- A run of turns, in any interleaving (46_job_fsm.md R219). -/
def printRun : List PrintTurn → PrintCall → State → Host.Outcome (PrintCall × State) Fault Refusal
  | [], c, s => .next (c, s)
  | turn :: turns, c, s =>
    match printTurn turn c s with
    | .next r => printRun turns r.1 r.2
    | .fault r => .fault r
    | .refused r => .refused r

end Sys2Proof.Machine
end

