-- ==== Sys2Proof/Safety.lean ====
section
/-! DEFINITION. The terms claims use: what a safe state is, what stays unchanged, how far a job has come, and the gamma
table a claim about an exponent assumes. -/

namespace Sys2Proof.Machine

/-- Every cell of `IMG` and of `LUT` reads after as it read before. -/
def SameMemory (s t : State) : Prop := (∀ a, t.imgCell a = s.imgCell a) ∧ ∀ i, t.lutCell i = s.lutCell i

/-- What the host wrote, what it will do and what it last read are as before; both table spaces read as before. -/
structure KeepsInputs (s t : State) : Prop where
  params : t.params = s.params
  job : t.job = s.job
  memory : SameMemory s t
  schedule : t.env.schedule = s.env.schedule
  hostRd : t.env.hostRd = s.env.hostRd

/-- `t` is `s` after its job has failed: the record, the release of the handle, `Failed`, and every other register of
the control position, the heights and the inputs as before (60_exceptions.md R242, R246). -/
structure FailedWith (s t : State) (code : BitVec 8) (info : Word) : Prop where
  ctl : t.ctl = { s.ctl with jobState := .failed, devOwn := false, cancelPend := false }
  errCode : t.res.errCode = code
  errStage : t.res.errStage = s.ctl.jobState.code
  errInfo : t.res.errInfo = info
  outHeight : t.res.outHeight = s.res.outHeight
  nLines : t.res.nLines = s.res.nLines
  inputs : KeepsInputs s t

/-- The registers of the last status reply are as before. -/
def SameStatus (s t : State) : Prop :=
  t.res.stValid = s.res.stValid ∧ t.res.stFrame = s.res.stFrame ∧ t.res.stRaw = s.res.stRaw

/-- No call was made on LINK and no byte delivered. -/
def NothingSent (s t : State) : Prop := t.env.txLog = s.env.txLog ∧ t.env.calls = s.env.calls

/-- What the host reads of every register, as a number, field by field (10_state.md R21, R23 to R33). Of
`PARAM_STATUS_LEN` these are the low 16 bits (log entry 20). -/
structure RegisterValues (s : State) : Prop where
  status : (s.readRegister 0x01).toNat =
    (match s.ctl.jobState with
      | .idle => 0 | .scaling => 1 | .correctingGamma => 2 | .dithering => 3 | .packing => 4 | .encoding => 5
      | .transferring => 6 | .awaitingStatus => 7 | .done => 8 | .failed => 9)
    + 16 * s.ctl.devOwn.toNat + 32 * s.ctl.cancelPend.toNat + 64 * s.ctl.busyReject.toNat + 128 * s.res.stValid.toNat
  frameIdx : s.readRegister 0x02 = s.ctl.frameIdx
  err : (s.readRegister 0x03).toNat = s.res.errCode.toNat + 256 * s.res.errStage.toNat
  errInfo : s.readRegister 0x04 = s.res.errInfo
  stFrame : (s.readRegister 0x05).toNat =
    if s.res.stValid then
      s.res.stFrame.mediaWidthMm.toNat
      + 2 ^ 8 * (match s.res.stFrame.mediaType with | .continuous => 0 | .dieCut => 1 | .unknown => 2)
      + 2 ^ 10 * s.res.stFrame.flags.noMedia.toNat + 2 ^ 11 * s.res.stFrame.flags.coverOpen.toNat
      + 2 ^ 12 * s.res.stFrame.flags.paperJam.toNat + 2 ^ 13 * s.res.stFrame.flags.unrecoverable.toNat
      + 2 ^ 14 * s.res.stFrame.flags.unrecognized.toNat
      + 2 ^ 16 * (match s.res.stFrame.phase with | .receiving => 0 | .printing => 1 | .cooling => 2 | .unrecognized => 3)
    else 0
  imgWidth : (s.readRegister 0x06).toNat = s.job.imgWidth.toNat
  imgHeight : (s.readRegister 0x07).toNat = s.job.imgHeight.toNat
  imgFmt : (s.readRegister 0x08).toNat = s.job.rgb.toNat
  jobCfg : (s.readRegister 0x09).toNat =
    (match s.job.fitMode with | .pad => 0 | .crop => 1 | .rejectOversized => 2)
    + (match s.job.align with | .leftPadded => 0 | .centered => 4) + 256 * s.job.mediaId.toNat
  ditherBias : (s.readRegister 0x0A).toNat = s.job.ditherBias.toNat
  timeout : s.readRegister 0x0B = s.job.timeout
  outHeight : (s.readRegister 0x0C).toNat = s.res.outHeight.toNat
  nLines : (s.readRegister 0x0D).toNat = s.res.nLines.toNat
  paramW : (s.readRegister 0x10).toNat = s.params.cfg.width
  paramHead : (s.readRegister 0x11).toNat = s.params.cfg.head
  paramMaxLines : (s.readRegister 0x12).toNat = s.params.cfg.maxLines
  paramBytes : (s.readRegister 0x13).toNat = (s.params.cfg.head + 7) / 8
  paramStatusLen : (s.readRegister 0x14).toNat = s.params.wire.statusLen % 65536

/-- The frame an instruction hands to LINK: the frame at `TXQ[FRAME_IDX]` for `TX`, the StatusRequest frame for
`STATREQ.op`, its own bytes for a command frame. -/
def State.sentFrame (s : State) : Instr → Option (List Byte)
  | .tx => s.buf.txq[s.ctl.frameIdx.toNat]?
  | .statreqOp => some (frameStatreq s.params.wire)
  | .init => some (frameInit s.params.wire)
  | .media id length => some (frameMedia s.params.wire id length)
  | .raster line => some (frameRaster s.params.wire line)
  | .print => some (framePrint s.params.wire)
  | .statreq => some (frameStatreq s.params.wire)
  | .scale => none
  | .gamma => none
  | .dither => none
  | .pack => none
  | .encode => none
  | .statusOp => none
  | .start => none
  | .cancel => none
  | .clrBusy => none
  | .status _ => none

/-- The burst an instruction receives: LINK's answer to the read for `STATUS.op`, at most `STATUS_LEN` bytes of its
own operand for the reply. -/
def State.receivedReply (s : State) : Instr → Option (List Byte)
  | .statusOp =>
    match s.nextRead s.params.wire.statusLen with
    | .ok burst => some burst
    | .ioError _ => none
    | .timeout => none
  | .status reply => some (reply.take s.params.wire.statusLen)
  | .scale => none
  | .gamma => none
  | .dither => none
  | .pack => none
  | .encode => none
  | .tx => none
  | .statreqOp => none
  | .start => none
  | .cancel => none
  | .clrBusy => none
  | .init => none
  | .media _ _ => none
  | .raster _ => none
  | .print => none
  | .statreq => none

/-- `Resample(IMG, w, h, CH, wo, ho)[Y][X][k]` written out as in 40_scaler.md R119. -/
def State.areaMean (s : State) (k wo ho X Y : Nat) : Nat :=
  let w := s.job.imgWidth.toNat
  let h := s.job.imgHeight.toNat
  let ch := if s.job.rgb then 3 else 1
  (2 * (∑ y ∈ Finset.range h, ∑ x ∈ Finset.range w,
      (s.imgCell ((y * w + x) * ch + k)).toNat * overlap x X w wo * overlap y Y h ho) + w * h) / (2 * (w * h))

/-- The floored part `(e × w_i) div DEN` of an error (42_ditherer.md R144). -/
def floorShare (k : DiffusionKernel) (i : Nat) (e : Int) : Int := e * (k.taps.getD i ⟨0, 0, 0⟩).weight / k.den

/-- The share of tap `j`: floored for every tap but the last, which takes the remainder (42_ditherer.md R144). -/
def diffusionShare (k : DiffusionKernel) (j : Nat) (e : Int) : Int :=
  if j + 1 < k.taps.length then floorShare k j e
  else e - ∑ i ∈ Finset.range (k.taps.length - 1), floorShare k i e

/-- The error that reaches pixel (x, y) of an image of width `width`, given the error of every pixel: for each tap, the
share of the pixel it comes from, if that pixel lies in the image (42_ditherer.md R144, R145). -/
def incomingError (k : DiffusionKernel) (width : Nat) (err : Nat → Nat → Int) (x y : Nat) : Int :=
  ∑ j ∈ Finset.range k.taps.length,
    let tap := k.taps.getD j ⟨0, 0, 0⟩
    if 0 ≤ (x : Int) - tap.dx ∧ (x : Int) - tap.dx < width ∧ tap.dy ≤ y then
      diffusionShare k j (err ((x : Int) - tap.dx).toNat (y - tap.dy))
    else 0

/-- The device handle is owned exactly while the core is busy (46_job_fsm.md R221), and a cancellation is pending only
then (46_job_fsm.md R214, R218). -/
def HandleInv (s : State) : Prop :=
  s.ctl.devOwn = s.busy ∧ (s.ctl.cancelPend = true → s.busy = true)

/-- `LUT` and `IMG` are in their canonical form. -/
def MemoryInv (s : State) : Prop :=
  Memory.wf 256 lutDefault s.lut = true ∧ Memory.wf imgSpace imgDefault s.img = true

/-- The values `ERR_CODE` can hold beside 0 (60_exceptions.md R241). -/
def errorCodes : List (BitVec 8) := [0x11, 0x12, 0x13, 0x21, 0x22, 0x31, 0x41, 0x51]

/-- The record: an error is recorded exactly in `Failed` (60_exceptions.md R241, R242); `ST_FRAME` and `ST_RAW` hold a
reply of `STATUS_LEN` bytes that passed the check and its decoding while `ST_VALID` is 1, which it is only in a
terminal state, and `ST_FRAME` is 0 otherwise (10_state.md R27, R37). -/
def RecordInv (s : State) : Prop :=
  (if s.ctl.jobState = .failed then s.res.errCode ∈ errorCodes
   else s.res.errCode = 0 ∧ s.res.errStage = 0 ∧ s.res.errInfo = 0)
  ∧ (if s.res.stValid then
      s.res.stRaw.length = s.params.wire.statusLen ∧ s.params.wire.statusCheck.holds s.res.stRaw = true
      ∧ s.res.stFrame = decodeStatus s.params.wire s.res.stRaw
      ∧ (s.ctl.jobState = .done ∨ s.ctl.jobState = .failed)
    else s.res.stFrame = .zero)

/-- The control position: `FRAME_IDX` counts at most the frames of the job, and no frame has been sent before
`Transferring`; `AW_SUB` is 1 only once the StatusRequest frame has been written (10_state.md R25). -/
def PositionInv (s : State) : Prop :=
  s.ctl.frameIdx.toNat ≤ s.res.nLines.toNat + 3
  ∧ (s.ctl.jobState.code.toNat ≤ 5 ∧ s.busy = true → s.ctl.frameIdx = 0)
  ∧ (s.ctl.awSub = true → s.ctl.jobState = .awaitingStatus ∨ s.ctl.jobState = .done ∨ s.ctl.jobState = .failed)

/-- A height that `SCALE` produces: `1 ≤ height ≤ MAX_LINES` (40_scaler.md R120). -/
def GoodHeight (s : State) (n : BitVec 16) : Prop := 1 ≤ n.toNat ∧ n.toNat ≤ s.params.cfg.maxLines

/-- Each stage finds in its buffer what the stage before it wrote (10_state.md R38, 46_job_fsm.md R222): an image or a
raster of the right shape, and in `Transferring` the queue of this job with a frame left to send. -/
def PipelineInv (s : State) : Prop :=
  match s.ctl.jobState with
  | .idle => True
  | .scaling => True
  | .correctingGamma =>
    GoodHeight s s.res.outHeight
      ∧ s.buf.scaled.length = s.res.outHeight.toNat * s.params.cfg.width * s.job.channels
  | .dithering => GoodHeight s s.res.outHeight ∧ s.buf.gray.length = s.res.outHeight.toNat * s.params.cfg.width
  | .packing => GoodHeight s s.res.outHeight ∧ s.buf.mono.length = s.res.outHeight.toNat * s.params.cfg.width
  | .encoding =>
    GoodHeight s s.res.nLines ∧ s.res.nLines = s.res.outHeight
      ∧ s.buf.raster.length = s.res.nLines.toNat * s.params.cfg.bytes
  | .transferring =>
    GoodHeight s s.res.nLines ∧ s.buf.raster.length = s.res.nLines.toNat * s.params.cfg.bytes
      ∧ s.buf.txq = buildQueue s.params.wire s.job.mediaId s.res.nLines.toNat s.rasterLines
      ∧ s.ctl.frameIdx.toNat < s.res.nLines.toNat + 3
  | .awaitingStatus => s.ctl.frameIdx.toNat = s.res.nLines.toNat + 3
  | .done => True
  | .failed => True

/-- The invariant of the machine. -/
structure Inv (s : State) : Prop where
  handle : HandleInv s
  memory : MemoryInv s
  record : RecordInv s
  position : PositionInv s
  pipeline : PipelineInv s

/-- How far the job has come along (`JOB_STATE`, `FRAME_IDX`, `AW_SUB`), as one number (46_job_fsm.md R219). -/
def State.progress (s : State) : Nat :=
  s.ctl.jobState.code.toNat * 2 ^ 34 + s.ctl.frameIdx.toNat * 2 + s.ctl.awSub.toNat

/-- The next event is a core step. -/
def State.coreNext (s : State) : Prop := s.nextEvent = .core

/-- `GammaLUT(γ)[s] = round(255 × (s/255)^(1/γ))`, ties upward (41_gamma.md R133). It is the host's table: the core
never computes it, and a claim that speaks of γ assumes `LutIsGamma`. The rule gives a table for γ > 0 only; what this
total function is elsewhere (at γ = 0, 255 throughout) is the model's, and no claim speaks of it (DESIGN CHOICE, safe: log
entry 22). -/
noncomputable def gammaLut (γ : ℝ) (s : ℕ) : ℕ := ⌊255 * ((s : ℝ) / 255) ^ (1 / γ) + 1 / 2⌋₊

/-- `LUT = GammaLUT(γ)` (41_gamma.md R133, R134); an exponent γ ≤ 0 has no table, so no `LUT` is its. -/
def LutIsGamma (γ : ℝ) (s : State) : Prop := 0 < γ ∧ ∀ i, i < 256 → (s.lutCell i).toNat = gammaLut γ i

end Sys2Proof.Machine
end

