-- ==== Sys2Proof/Certificates/Slice0/Obligations.lean ====
section
/-! DEFINITION. The statements for the provers, each a rule of the spec or what follows from several. -/

open Sys2Proof Sys2Proof.Machine

/-! ## Reset -/

/-- 10_state.md R42: what the host reads after reset, for every implementation. `PARAM_STATUS_LEN` is stated for reply
lengths that fit its 16 bits (log entry 20). -/
def Obligations.ResetRegisterValues : Prop :=
  ∀ p : Params,
    let s := State.resetWith p
    (∀ n ∈ [0x00, 0x01, 0x02, 0x03, 0x04, 0x05, 0x06, 0x07, 0x08, 0x0A, 0x0C, 0x0D], s.readRegister n = 0)
    ∧ s.readRegister 0x09 = 2 ∧ s.readRegister 0x0B = 0xFFFFFFFF
    ∧ (s.readRegister 0x10).toNat = p.cfg.width ∧ (s.readRegister 0x11).toNat = p.cfg.head
    ∧ (s.readRegister 0x12).toNat = p.cfg.maxLines ∧ (s.readRegister 0x13).toNat = (p.cfg.head + 7) / 8
    ∧ (p.wire.statusLen < 65536 → (s.readRegister 0x14).toNat = p.wire.statusLen)
    ∧ s.ctl.awSub = false
    ∧ (∀ i, i < 256 → (s.lutCell i).toNat = i) ∧ (∀ i, s.stRawCell i = 0) ∧ s.env.txLog = []

/-- The machine's invariant holds right after reset, for every implementation. -/
def Obligations.ResetSatisfiesInvariant : Prop := ∀ p : Params, Inv (State.resetWith p)

/-- 70_reset_and_hazards.md R270, R271, R272: a hardware reset in any state puts every register, `AW_SUB`, the table
and the log at their reset values and writes nothing to LINK. -/
def Obligations.HardwareResetFromAnyState : Prop :=
  ∀ s : State, s.nextEvent = .hardwareReset →
    ∃ t, step s = .next t
      ∧ t.params = s.params
      ∧ (∀ n, t.readRegister n = (State.resetWith s.params).readRegister n)
      ∧ (∀ i, i < 256 → (t.lutCell i).toNat = i) ∧ (∀ i, t.stRawCell i = 0)
      ∧ t.busy = false ∧ t.ctl.awSub = false ∧ t.env.txLog = [] ∧ t.env.calls = s.env.calls
      ∧ t.env.schedule = s.env.schedule.tail

/-! ## Encodings, and what a step runs -/

/-- 30_encoding.md R89 to R92, R96, R97: words written out from the spec's encodings decode to what they stand for. How
a word of the table is read is the model's choice: a control position as an 8-bit word, byte 0 of a frame as the most
significant, and 0x020A0004 as MEDIA and not as a `CTRL` value (log entry 13). -/
def Obligations.SampleWordsDecode : Prop :=
  decodeTableWord 8 0b00010 = some .scale ∧ decodeTableWord 8 0b01110 = some .statreqOp
  ∧ decodeTableWord 8 0b01111 = some .statusOp ∧ decodeTableWord 32 0x1 = some .start
  ∧ decodeTableWord 32 0x4 = some .clrBusy ∧ decodeTableWord 16 0x01FE = some .init
  ∧ decodeTableWord 32 0x020A0004 = some (.media 0x0A 4)
  ∧ decode wireRef (.frame [0x03, 0x00, 0x02, 0x00, 0xF0]) = .ok (.raster [0x00, 0xF0])
  ∧ decodeTableWord 64 0xA53E000200000000 = some (.status [0xA5, 0x3E, 0, 2, 0, 0, 0, 0])

/-- Decode and encode agree, for every instruction with every operand its encoding admits, on every implementation
whose frames begin differently (which 30_encoding.md R87 does not require of a `WIRE`, and `WIRE_REF` has). -/
def Obligations.DecodeEncodeAgree : Prop :=
  ∀ (p : Params) (i : Instr), p.wire.distinctLeads = true → i.wellFormed p = true →
    decode p.wire (encode p.wire i) = .ok i

/-- A byte string that decodes to a command frame is that frame's encoding, byte for byte: no two byte strings are read
as the same frame. -/
def Obligations.FrameHasOneEncoding : Prop :=
  ∀ (w : Wire) (bytes : List Byte) (i : Instr), decode w (.frame bytes) = .ok i → encode w i = .frame bytes

/-- The next step of a state in which a word of the table was placed runs the instruction decoded from the word, in a
state that has the inputs, the results and the log of the one it was placed in (the model's own placing, log entries 13
and 15). -/
def Obligations.PlacedWordRuns : Prop :=
  ∀ (s : State) (nbits w : Nat) (i : Instr), s.params.wire = wireRef → decodeTableWord nbits w = some i →
    ∃ u, step (s.withFetchWord nbits w) = exec i u
      ∧ KeepsInputs s u ∧ u.res = s.res ∧ u.env.txLog = s.env.txLog ∧ u.env.calls = s.env.calls

/-- 46_job_fsm.md R217, 30_encoding.md R96: a core step of a busy core with no cancellation pending runs the operation
that the control position selects. The step first takes the core's turn off the schedule (log entry 3). -/
def Obligations.StepRunsStageOperation : Prop :=
  ∀ s : State, s.nextEvent = .core → s.busy = true → s.ctl.cancelPend = false →
    ∃ i, decode s.params.wire (.position s.position) = .ok i ∧ step s = exec i s.popEvent
      ∧ (s.ctl.jobState = .scaling → i = .scale) ∧ (s.ctl.jobState = .correctingGamma → i = .gamma)
      ∧ (s.ctl.jobState = .dithering → i = .dither) ∧ (s.ctl.jobState = .packing → i = .pack)
      ∧ (s.ctl.jobState = .encoding → i = .encode) ∧ (s.ctl.jobState = .transferring → i = .tx)
      ∧ (s.ctl.jobState = .awaitingStatus → s.ctl.awSub = false → i = .statreqOp)
      ∧ (s.ctl.jobState = .awaitingStatus → s.ctl.awSub = true → i = .statusOp)

/-- 30_encoding.md R97: a host write to `CTRL` that encodes one command runs that command. -/
def Obligations.StepRunsHostCommand : Prop :=
  ∀ (s : State) (v : Word) (i : Instr), s.nextEvent = .writeReg 0 v → decode s.params.wire (.ctrl v) = .ok i →
    step s = exec i s.popEvent

/-- 46_job_fsm.md R211: a write to `CTRL` performs `CLR_BUSY`, `CANCEL`, `START` in this order, each only if its bit is
set; bits 3 to 31 are ignored. -/
def Obligations.CtrlWriteOrder : Prop :=
  ∀ (s : State) (v : Word), s.nextEvent = .writeReg 0 v →
    let reject := s.ctl.busyReject && !v.getLsbD 2
    (s.busy = true → step s = .next
      { s.popEvent with ctl := { s.ctl with
          busyReject := reject || v.getLsbD 0, cancelPend := s.ctl.cancelPend || v.getLsbD 1 } })
    ∧ (s.busy = false → v.getLsbD 0 = false → step s = .next
      { s.popEvent with ctl := { s.ctl with busyReject := reject } })
    ∧ (s.busy = false → v.getLsbD 0 = true →
        ∃ t, step s = .next t ∧ KeepsInputs s.popEvent t ∧ NothingSent s t
          ∧ t.ctl = { jobState := .scaling, frameIdx := 0, awSub := false, devOwn := true, cancelPend := false,
                      busyReject := reject })

/-- 44_protocol_encoder.md R171, R177, R180, 45_protocol_decoder.md R190: in `Transferring` the core step runs the
instruction which the frame at `TXQ[FRAME_IDX]` decodes to (the StatusRequest frame is never part of the queue); in
`AwaitingStatus` it first runs the StatusRequest frame and then the reply that LINK answers with. -/
def Obligations.StepRunsLinkFrames : Prop :=
  ∀ s : State, s.nextEvent = .core → s.ctl.cancelPend = false →
    (s.ctl.jobState = .transferring → ∀ (f : List Byte) (i : Instr), s.buf.txq[s.ctl.frameIdx.toNat]? = some f →
      decode s.params.wire (.frame f) = .ok i → i ≠ .statreq → step s = exec i s.popEvent)
    ∧ (s.ctl.jobState = .awaitingStatus → s.ctl.awSub = false → step s = exec .statreq s.popEvent)
    ∧ (s.ctl.jobState = .awaitingStatus → s.ctl.awSub = true → ∀ (b : List Byte) (i : Instr),
        s.nextRead s.params.wire.statusLen = .ok b → decode s.params.wire (.reply b) = .ok i →
        step s = exec i s.popEvent)

/-! ## Host commands and host accesses -/

/-- 46_job_fsm.md R212: an accepted `START`, in any state that is not busy. -/
def Obligations.StartAccepted : Prop :=
  ∀ s : State, s.busy = false →
    ∃ t, exec .start s = .next t
      ∧ (∀ n ∈ [0x02, 0x03, 0x04, 0x05, 0x0C, 0x0D], t.readRegister n = 0)
      ∧ t.readRegister 0x01 = (if s.ctl.busyReject then 0x51 else 0x11)
      ∧ (∀ i, t.stRawCell i = 0) ∧ t.ctl.awSub = false
      ∧ t = { s with ctl := t.ctl, res := t.res } ∧ SameMemory s t

/-- 46_job_fsm.md R213, 60_exceptions.md R250: `START` while busy sets `BUSY_REJECT`, and nothing else changes; the
call of `print` that wrote it returns `PrinterBusy`, 0x23. A call that finds the core busy waits, or takes `PrinterBusy`
(30_encoding.md R101). That it does the latter in one turn, and that a call knows of its rejection, are the model's choices
(log entry 24). -/
def Obligations.StartRejectedWhileBusy : Prop :=
  ∀ s : State, s.busy = true →
    ∃ t, exec .start s = .next t ∧ t.readRegister 0x01 = s.readRegister 0x01 ||| 0x40
      ∧ t = { s with ctl := { s.ctl with busyReject := t.ctl.busyReject } } ∧ SameMemory s t
      ∧ (∀ c : PrintCall, c.phase = .load [] ∨ (c.phase = .wait ∧ c.blocks = false) →
          ∃ r, printTurn .call c s = .next ({ c with phase := .returned r }, t) ∧ r.errorCode = some 0x23)
      ∧ (∀ c : PrintCall, c.phase = .wait → c.blocks = true →
          printTurn .call c s = .next
            (c, { s with env := { s.env with hostRd := s.readRegister 0x01 } }))

/-- 46_job_fsm.md R214: `CANCEL` is latched while busy and ignored otherwise. -/
def Obligations.CancelLatchedOnlyWhileBusy : Prop :=
  ∀ s : State,
    ∃ t, exec .cancel s = .next t
      ∧ t.readRegister 0x01 = (if s.busy then s.readRegister 0x01 ||| 0x20 else s.readRegister 0x01)
      ∧ t = { s with ctl := { s.ctl with cancelPend := t.ctl.cancelPend } } ∧ SameMemory s t

/-- 46_job_fsm.md R215: `CLR_BUSY` clears `BUSY_REJECT` in any state and has no other effect. -/
def Obligations.ClrBusyClearsTheFlag : Prop :=
  ∀ s : State,
    ∃ t, exec .clrBusy s = .next t ∧ t.readRegister 0x01 = s.readRegister 0x01 &&& ~~~0x40#32
      ∧ t = { s with ctl := { s.ctl with busyReject := t.ctl.busyReject } } ∧ SameMemory s t

/-- 10_state.md R44: while the core is busy every host write to a register other than `CTRL`, to `LUT` and to `IMG` is
ignored. -/
def Obligations.BusyLockDropsWrites : Prop :=
  ∀ s : State, s.busy = true →
    (∀ n v, s.nextEvent = .writeReg n v → n ≠ 0 → step s = .next s.popEvent)
    ∧ (∀ i v, s.nextEvent = .writeLut i v → step s = .next s.popEvent)
    ∧ (∀ a v, s.nextEvent = .writeImg a v → step s = .next s.popEvent)

/-- 10_state.md R44, 20_memory.md R72: whatever happens in a step that begins in a busy core, short of a hardware
reset, the descriptor, the table and the image stay as they were when the job was started. -/
def Obligations.JobInputsConstantWhileBusy : Prop :=
  ∀ s t : State, s.busy = true → s.nextEvent ≠ .hardwareReset → step s = .next t →
    t.params = s.params ∧ t.job = s.job ∧ t.lut = s.lut ∧ t.img = s.img ∧ SameMemory s t

/-- 10_state.md R20, R21, R28 to R31: a host write to an RW register while the core is not busy is read back, reserved
bits as 0 and `FIT_MODE` = 3 as 2; every other register and both table spaces read as before. -/
def Obligations.RegisterWriteReadBack : Prop :=
  ∀ (s : State) (n : Nat) (v : Word), s.busy = false → s.nextEvent = .writeReg n v →
    n ∈ [0x06, 0x07, 0x08, 0x09, 0x0A, 0x0B] →
    ∃ t, step s = .next t
      ∧ t.readRegister n =
          (if n = 0x06 ∨ n = 0x07 then v &&& 0xFFFF#32
           else if n = 0x08 then v &&& 1#32
           else if n = 0x09 then (v &&& 0xFF04#32) ||| (if v &&& 3#32 = 3#32 then 2#32 else v &&& 3#32)
           else if n = 0x0A then v &&& 0xFF#32
           else v)
      ∧ (∀ m, m ≠ n → t.readRegister m = s.readRegister m)
      ∧ t = { s.popEvent with job := t.job } ∧ SameMemory s t

/-- 20_memory.md R61, 10_state.md R35, R36: a host write to a table cell while the core is not busy changes that cell
alone. That a write to an `IMG` cell that does not exist is dropped is the model's choice (log entry 8). -/
def Obligations.TableWriteReadBack : Prop :=
  ∀ s : State, s.busy = false → MemoryInv s →
    (∀ i v, s.nextEvent = .writeLut i v →
      ∃ t, step s = .next t ∧ (∀ j, t.lutCell j = if j = i.toNat then v else s.lutCell j)
        ∧ (∀ a, t.imgCell a = s.imgCell a) ∧ t = { s.popEvent with lut := t.lut })
    ∧ (∀ a v, s.nextEvent = .writeImg a v → a < imgSpace →
      ∃ t, step s = .next t ∧ (∀ b, t.imgCell b = if b = a then v else s.imgCell b)
        ∧ (∀ i, t.lutCell i = s.lutCell i) ∧ t = { s.popEvent with img := t.img })
    ∧ (∀ a v, s.nextEvent = .writeImg a v → imgSpace ≤ a → step s = .next s.popEvent)

/-- 46_job_fsm.md R216, 10_state.md R20 to R33: what every register reads in every state; a host read returns the
register or cell and changes nothing; `CTRL` and reserved register numbers read 0, and a write to a reserved or
read-only number changes nothing; a call of `print` that waits begins its writes where the core is not busy, and one that
polls goes on until `Done` or `Failed` and returns `ST_FRAME`
or the error record (30_encoding.md R101). Where the value read is kept is the model's (log entry 18), and so is that a
read of a cell that does not exist returns a free value, about which nothing is said (log entry 8). -/
def Obligations.HostReadsChangeNothing : Prop :=
  ∀ s : State,
    RegisterValues s ∧
    (∀ n, s.nextEvent = .readReg n →
      step s = .next { s.popEvent with env := { s.popEvent.env with hostRd := s.readRegister n } }
      ∧ (n ∉ [0x01, 0x02, 0x03, 0x04, 0x05, 0x06, 0x07, 0x08, 0x09, 0x0A, 0x0B, 0x0C, 0x0D, 0x10, 0x11, 0x12, 0x13, 0x14]
          → s.readRegister n = 0))
    ∧ (∀ i, s.nextEvent = .readLut i →
      step s = .next { s.popEvent with env := { s.popEvent.env with hostRd := (s.lutCell i.toNat).setWidth 32 } })
    ∧ (∀ a, s.nextEvent = .readImg a → a < imgSpace →
      step s = .next { s.popEvent with env := { s.popEvent.env with hostRd := (s.imgCell a).setWidth 32 } })
    ∧ (∀ i, s.nextEvent = .readStRaw i → i < s.params.wire.statusLen →
      step s = .next { s.popEvent with env := { s.popEvent.env with
        hostRd := if s.res.stValid then (s.res.stRaw.getD i 0).setWidth 32 else 0 } })
    ∧ (∀ i, (s.nextEvent = .readImg i ∧ imgSpace ≤ i)
        ∨ (s.nextEvent = .readStRaw i ∧ s.params.wire.statusLen ≤ i) →
      ∃ v, step s = .next { s.popEvent with env := { s.popEvent.env with
        hostRd := v, absentReads := s.env.absentReads + 1 } })
    ∧ (∀ c : PrintCall, c.phase = .wait → s.busy = false → printTurn .call c s = .next
        ({ c with phase := .load (printWrites c.args) },
          { s with env := { s.env with hostRd := s.readRegister 0x01 } }))
    ∧ (∀ c : PrintCall, c.phase = .poll →
      (s.ctl.jobState = .done → printRun [.call, .call] c s = .next
        ({ c with phase := .returned (.ok (s.readRegister 0x05)) },
          { s with env := { s.env with hostRd := s.readRegister 0x05 } }))
      ∧ (s.ctl.jobState = .failed → printRun [.call, .call, .call] c s = .next
        ({ c with phase := .returned (.failed s.res.errCode s.res.errStage s.res.errInfo) },
          { s with env := { s.env with hostRd := s.res.errInfo } }))
      ∧ (s.ctl.jobState ≠ .done ∧ s.ctl.jobState ≠ .failed → printTurn .call c s = .next
        (c, { s with env := { s.env with hostRd := s.readRegister 0x01 } })))
    ∧ (∀ n v, s.nextEvent = .writeReg n v → n ∉ [0x00, 0x06, 0x07, 0x08, 0x09, 0x0A, 0x0B] →
      step s = .next s.popEvent)

/-! ## SCALE -/

/-- 40_scaler.md R116: an image without columns or rows ends the job with `EmptyImage`, in stage 1, with nothing written
and nothing sent. -/
def Obligations.ScaleRejectsEmptyImage : Prop :=
  ∀ s : State, s.ctl.jobState = .scaling → s.job.imgWidth.toNat = 0 ∨ s.job.imgHeight.toNat = 0 →
    ∃ t, exec .scale s = .next t ∧ FailedWith s t 0x11 0 ∧ t.readRegister 0x03 = 0x111
      ∧ SameStatus s t ∧ NothingSent s t

/-- 40_scaler.md R117, R118: an oversized image under `reject-oversized` ends the job with `ImageTooLarge`, with nothing
written and nothing sent. -/
def Obligations.ScaleRejectsOversized : Prop :=
  ∀ s : State, 0 < s.job.imgWidth.toNat → 0 < s.job.imgHeight.toNat →
    s.params.cfg.maxLines < (2 * s.job.imgHeight.toNat * s.params.cfg.width + s.job.imgWidth.toNat)
      / (2 * s.job.imgWidth.toNat) →
    s.job.fitMode = .rejectOversized →
    ∃ t, exec .scale s = .next t ∧ FailedWith s t 0x12 0 ∧ SameStatus s t ∧ NothingSent s t

/-- 40_scaler.md R115, R117 to R121: `SCALE` of a non-empty image that is not rejected: the height, and every sample as
the exact area average of the geometry the fit mode calls for. -/
def Obligations.ScaleRendersImage : Prop :=
  ∀ s : State,
    let c := s.params.cfg
    let w := s.job.imgWidth.toNat
    let h := s.job.imgHeight.toNat
    let ch := if s.job.rgb then 3 else 1
    let hc := (2 * h * c.width + w) / (2 * w)
    let wi := min c.width (max 1 ((2 * (w * c.maxLines) + h) / (2 * h)))
    let off := (c.width - wi) / 2
    0 < w → 0 < h → hc ≤ c.maxLines ∨ s.job.fitMode ≠ .rejectOversized →
    ∃ t, exec .scale s = .next t
      ∧ t.res.outHeight.toNat = (if hc ≤ c.maxLines then max 1 hc else c.maxLines)
      ∧ 1 ≤ t.res.outHeight.toNat ∧ t.res.outHeight.toNat ≤ c.maxLines
      ∧ t.buf.scaled.length = t.res.outHeight.toNat * c.width * ch
      ∧ (∀ Y X k, Y < t.res.outHeight.toNat → X < c.width → k < ch →
          (t.buf.scaled.getD ((Y * c.width + X) * ch + k) 0).toNat =
            if hc ≤ c.maxLines then s.areaMean k c.width (max 1 hc) X Y
            else if s.job.fitMode = .crop then s.areaMean k c.width hc X Y
            else if off ≤ X ∧ X < off + wi then s.areaMean k wi c.maxLines (X - off) Y
            else 255)
      ∧ t = { s with
          buf := { s.buf with scaled := t.buf.scaled }
          res := { s.res with outHeight := t.res.outHeight }
          ctl := { s.ctl with jobState := .correctingGamma } }
      ∧ SameMemory s t

/-- 40_scaler.md R119: the overlaps of one output cell with all source cells sum to the source size. -/
def Obligations.OverlapsSumToSource : Prop :=
  ∀ n no o : Nat, 0 < n → o < no → ∑ i ∈ Finset.range n, overlap i o n no = n

/-- 40_scaler.md R119: a resampled sample never leaves the range of its source, and a constant source gives the same
constant. -/
def Obligations.ResampleKeepsRange : Prop :=
  ∀ (src : Nat → Nat → Nat) (lo hi w h wo ho X Y : Nat), 0 < w → 0 < h → X < wo → Y < ho →
    (∀ y x, y < h → x < w → lo ≤ src y x ∧ src y x ≤ hi) →
    lo ≤ resample src w h wo ho Y X ∧ resample src w h wo ho Y X ≤ hi

/-- 40_scaler.md R119, R123 (a): scaling up by whole factors replicates each source pixel into a block; by factors of
one it is the identity. -/
def Obligations.ResampleReplicates : Prop :=
  ∀ (src : Nat → Nat → Nat) (w h a b X Y : Nat), 0 < a → 0 < b → X < a * w → Y < b * h →
    resample src w h (a * w) (b * h) Y X = src (Y / b) (X / a)

/-- 40_scaler.md R117, R122: the computed height is within half a row of the exact height, and the inner width under
`pad` within half a column of the exact width or one column; the inner image fits the target width. -/
def Obligations.AspectRatioPreserved : Prop :=
  ∀ (c : Cfg) (w h : Nat), c.check = true → 0 < w → 0 < h →
    let hc := computedHeight c w h
    let wi := padInnerWidth c w h
    2 * (h * c.width) ≤ 2 * (hc * w) + w ∧ 2 * (hc * w) ≤ 2 * (h * c.width) + w
    ∧ (hc = 0 → 2 * (h * c.width) < w)
    ∧ 1 ≤ wi ∧ wi ≤ c.width
    ∧ (c.maxLines < hc →
        wi = 1 ∨ (2 * (w * c.maxLines) ≤ 2 * (wi * h) + h ∧ 2 * (wi * h) ≤ 2 * (w * c.maxLines) + h))

/-! ## GAMMA -/

/-- 41_gamma.md R130 to R132: `GAMMA` replaces every pixel by the table entry of its luminance. -/
def Obligations.GammaReplacesSamples : Prop :=
  ∀ s : State,
    let w := s.params.cfg.width
    let h := s.res.outHeight.toNat
    let ch := if s.job.rgb then 3 else 1
    ∃ t, exec .gamma s = .next t
      ∧ t.buf.gray.length = h * w
      ∧ (s.buf.scaled.length = h * w * ch →
          ∀ x y, x < w → y < h →
            let sample := fun k => (s.buf.scaled.getD ((y * w + x) * ch + k) 0).toNat
            t.buf.gray.getD (y * w + x) 0 =
              s.lutCell (if s.job.rgb then (299 * sample 0 + 587 * sample 1 + 114 * sample 2 + 500) / 1000
                else sample 0))
      ∧ t = { s with buf := { s.buf with gray := t.buf.gray }, ctl := { s.ctl with jobState := .dithering } }
      ∧ SameMemory s t

/-- 41_gamma.md R131: the luminance is the weighted sum rounded to nearest, ties upward; a grey pixel keeps its value. -/
def Obligations.LumaRoundsToNearest : Prop :=
  ∀ r g b : Byte,
    let exact := 299 * r.toNat + 587 * g.toNat + 114 * b.toNat
    exact < 1000 * (luma r g b).toNat + 500 ∧ 1000 * (luma r g b).toNat ≤ exact + 500
    ∧ luma r r r = r

/-- 41_gamma.md R133 to R135: for every exponent the table runs from 0 to 255 and is non-decreasing, and for exponent 1
it is the identity; a core whose host loaded such a table maps a darker sample to no lighter one, and under exponent 1
keeps every sample. -/
def Obligations.GammaTableProperties : Prop :=
  ∀ γ : ℝ, 0 < γ →
    gammaLut γ 0 = 0 ∧ gammaLut γ 255 = 255 ∧ (∀ i, i ≤ 255 → gammaLut 1 i = i)
    ∧ (∀ i j, i ≤ j → gammaLut γ i ≤ gammaLut γ j)
    ∧ ∀ s t : State, LutIsGamma γ s → s.job.rgb = false →
        s.buf.scaled.length = s.res.outHeight.toNat * s.params.cfg.width → exec .gamma s = .next t →
        (∀ i j, i < s.buf.scaled.length → j < s.buf.scaled.length →
          (s.buf.scaled.getD i 0).toNat ≤ (s.buf.scaled.getD j 0).toNat →
          (t.buf.gray.getD i 0).toNat ≤ (t.buf.gray.getD j 0).toNat)
        ∧ (γ = 1 → t.buf.gray = s.buf.scaled)

/-! ## DITHER -/

/-- 42_ditherer.md R140, R143 to R145: `MONO` is the image whose corrected values satisfy the error-diffusion
recurrence: each is the sample plus the shares of the errors of the pixels that diffuse to it, and a pixel is black
exactly where its corrected value is below the threshold. Of the accumulator the rule says nothing afterwards (log entry
10). -/
def Obligations.DitherDiffusesErrors : Prop :=
  ∀ s : State,
    let k := s.params.kernel
    let w := s.params.cfg.width
    let h := s.res.outHeight.toNat
    let t := 128 + s.job.ditherBias.toInt
    s.buf.gray.length = h * w →
    ∃ u, exec .dither s = .next u
      ∧ u.buf.mono.length = h * w
      ∧ (∃ v : Nat → Nat → Int,
          (∀ x y, x < w → y < h →
            v x y = k.den * (s.buf.gray.getD (y * w + x) 0).toNat
              + incomingError k w (fun x y => v x y - if v x y < k.den * t then 0 else k.den * 255) x y)
          ∧ ∀ x y, x < w → y < h → u.buf.mono.getD (y * w + x) false = decide (v x y < k.den * t))
      ∧ u = { s with
          buf := { s.buf with mono := u.buf.mono, acc := u.buf.acc }, ctl := { s.ctl with jobState := .packing } }
      ∧ SameMemory s u

/-- 42_ditherer.md R144: the shares of one pixel, one for each tap, sum to its error exactly. -/
def Obligations.SharesSumToError : Prop :=
  ∀ (p : Params) (e : Int),
    (shares p.kernel e).length = p.kernel.taps.length ∧ (shares p.kernel e).sum = e
    ∧ ∀ j, j < p.kernel.taps.length → (shares p.kernel e).getD j 0 = diffusionShare p.kernel j e

/-- 42_ditherer.md R148 (b): a solid black field stays solid black unless the threshold is 0, and a solid white field
stays solid white at every threshold. -/
def Obligations.DitherKeepsSolidFields : Prop :=
  ∀ s : State,
    let n := s.res.outHeight.toNat * s.params.cfg.width
    (s.job.ditherBias ≠ 0x80#8 → s.buf.gray = List.replicate n 0 →
      ∃ t, exec .dither s = .next t ∧ t.buf.mono = List.replicate n true)
    ∧ (s.buf.gray = List.replicate n 255 →
      ∃ t, exec .dither s = .next t ∧ t.buf.mono = List.replicate n false)

/-! ## PACK -/

/-- 43_packer.md R157: a configuration wider than the head ends the job with `RowTooWide`, with nothing written and
nothing sent; any other configuration never does. -/
def Obligations.PackRejectsWideRows : Prop :=
  ∀ s : State,
    ∃ t, exec .pack s = .next t
      ∧ (s.params.cfg.head < s.params.cfg.width →
          FailedWith s t 0x13 0 ∧ SameStatus s t ∧ NothingSent s t
          ∧ (s.ctl.jobState = .packing → t.readRegister 0x03 = 0x413))
      ∧ (s.params.cfg.width ≤ s.params.cfg.head → t.ctl.jobState = .encoding ∧ t.readRegister 0x03 = s.readRegister 0x03)

/-- 43_packer.md R155, R156, R158 to R160, R163: `PACK` puts image pixel `x` of row `r` at head position `off + x` of line
`r`, most significant bit first, and 0 everywhere else. -/
def Obligations.PackPlacesPixels : Prop :=
  ∀ s : State,
    let c := s.params.cfg
    let n := min s.res.outHeight.toNat c.maxLines
    let bytes := (c.head + 7) / 8
    let off := if s.job.align = .leftPadded then c.head - c.width else (c.head - c.width) / 2
    c.width ≤ c.head →
    ∃ t, exec .pack s = .next t
      ∧ t.res.nLines.toNat = n ∧ t.buf.raster.length = n * bytes
      ∧ (s.buf.mono.length = s.res.outHeight.toNat * c.width →
          ∀ r p, r < n → p < 8 * bytes →
            (t.buf.raster.getD (r * bytes + p / 8) 0).getLsbD (7 - p % 8) =
              (decide (off ≤ p ∧ p < off + c.width) && s.buf.mono.getD (r * c.width + (p - off)) false))
      ∧ t = { s with
          buf := { s.buf with raster := t.buf.raster }
          ser := { s.ser with sr := t.ser.sr, bc := t.ser.bc }
          res := { s.res with nLines := t.res.nLines }
          ctl := { s.ctl with jobState := .encoding } }
      ∧ SameMemory s t

/-- 43_packer.md R162: unpacking a packed line gives the row back, and every bit outside the row is 0. -/
def Obligations.PackUnpackRoundTrip : Prop :=
  ∀ (bytes off : Nat) (m : List Bool), off + m.length ≤ 8 * bytes →
    unpack m.length (packLine bytes m off) off = m
    ∧ ∀ p, p < 8 * bytes → p < off ∨ off + m.length ≤ p →
        ((packLine bytes m off).getD (p / 8) 0).getLsbD (7 - p % 8) = false

/-- 43_packer.md R161: the bit-serial packer emits exactly `BYTES` bytes per line and they equal `PackLine`; its
counter ends on a byte boundary. -/
def Obligations.SerialPackerAgrees : Prop :=
  ∀ (head off : Nat) (m : List Bool), off + m.length ≤ head →
    (packLineSerial head m off).out = packLine ((head + 7) / 8) m off
    ∧ (packLineSerial head m off).out.length = (head + 7) / 8
    ∧ (packLineSerial head m off).bc = 0

/-! ## ENCODE and the frames -/

/-- 44_protocol_encoder.md R170, R171: the frames of a job, by index. -/
def Obligations.EncodeBuildsTheQueue : Prop :=
  ∀ s : State,
    let w := s.params.wire
    let n := s.res.nLines.toNat
    let bytes := s.params.cfg.bytes
    ∃ t, exec .encode s = .next t
      ∧ t.buf.txq.length = n + 3
      ∧ t.buf.txq[0]? = some w.initBytes
      ∧ t.buf.txq[1]? = some (w.mediaTag ++ [s.job.mediaId] ++ fieldBytes n w.lenWidth w.lenOrder)
      ∧ (s.buf.raster.length = n * bytes → ∀ r, r < n →
          t.buf.txq[2 + r]? = some (w.rasterTag ++ fieldBytes bytes w.rlenWidth w.lenOrder
            ++ (s.buf.raster.drop (r * bytes)).take bytes))
      ∧ t.buf.txq[n + 2]? = some w.printBytes
      ∧ t = { s with
          buf := { s.buf with txq := t.buf.txq }
          ctl := { s.ctl with frameIdx := 0, awSub := false, jobState := .transferring } }
      ∧ SameMemory s t

/-- 30_encoding.md R95: byte `i` of a length field, in either byte order; a number that fits its field is read back;
the line count and the line length of every implementation fit. -/
def Obligations.FieldsCarryTheirNumbers : Prop :=
  (∀ n width i, i < width →
    (fieldBytes n width .big)[i]? = some (BitVec.ofNat 8 (n / 256 ^ (width - 1 - i) % 256))
    ∧ (fieldBytes n width .little)[i]? = some (BitVec.ofNat 8 (n / 256 ^ i % 256)))
  ∧ (∀ n width o, (fieldBytes n width o).length = width
      ∧ (n < 256 ^ width → fieldValue o (fieldBytes n width o) = n))
  ∧ ∀ p : Params, p.cfg.maxLines < 256 ^ p.wire.lenWidth ∧ p.cfg.bytes < 256 ^ p.wire.rlenWidth

/-- 44_protocol_encoder.md R179: streaming a frame byte by byte from the raster lines gives the frame of the queue. -/
def Obligations.PacketizerStreamsTheQueue : Prop :=
  ∀ (w : Wire) (id : Byte) (n : Nat) (lines : List (List Byte)) (i k : Nat), i < lines.length + 3 →
    serialFrameByte w id n lines i k = (buildQueue w id n lines)[i]?.bind fun f => f[k]?

/-! ## Sending -/

/-- 44_protocol_encoder.md R177, R178: a frame of the job that LINK accepts: one `DevWrite` of the whole frame, and the
next frame or `AwaitingStatus`. A command frame as an instruction means its transmission by this step (log entry 11).
That `RASTER` and `TXQ` are empty lists after the last frame, which the spec calls unspecified (log entries 6, 7), and
that the byte counter keeps the frame's length (log entry 9) are the model's choices. -/
def Obligations.FrameAccepted : Prop :=
  ∀ (s : State) (i : Instr) (f : List Byte), s.sentFrame i = some f → i ≠ .statreqOp → i ≠ .statreq →
    s.nextWrite = .ok →
    ∃ t, exec i s = .next t
      ∧ t.env.txLog = s.env.txLog ++ f ∧ t.env.calls = s.env.calls ++ [.write f s.job.timeout]
      ∧ t.env.writeAnswers = s.env.writeAnswers.tail ∧ t.env.readAnswers = s.env.readAnswers
      ∧ t.ctl = { s.ctl with
          frameIdx := s.ctl.frameIdx + 1
          jobState := if (s.ctl.frameIdx + 1).toNat = s.buf.txq.length then .awaitingStatus else .transferring }
      ∧ ((s.ctl.frameIdx + 1).toNat ≠ s.buf.txq.length → t.buf = s.buf)
      ∧ ((s.ctl.frameIdx + 1).toNat = s.buf.txq.length → t.buf = { s.buf with raster := [], txq := [] })
      ∧ t.res = s.res ∧ t.ser = { s.ser with txCnt := f.length } ∧ KeepsInputs s t

/-- 44_protocol_encoder.md R180: the StatusRequest frame that LINK accepts; `FRAME_IDX` is not changed. That the frame as
an instruction means its transmission is the model's reading (log entry 11), and that the byte counter keeps the frame's
length is the model's choice (log entry 9). -/
def Obligations.StatusRequestAccepted : Prop :=
  ∀ (s : State) (i : Instr), i = .statreqOp ∨ i = .statreq → s.nextWrite = .ok →
    ∃ t, exec i s = .next t
      ∧ t.env.txLog = s.env.txLog ++ s.params.wire.statreqBytes
      ∧ t.env.calls = s.env.calls ++ [.write s.params.wire.statreqBytes s.job.timeout]
      ∧ t.env.writeAnswers = s.env.writeAnswers.tail ∧ t.env.readAnswers = s.env.readAnswers
      ∧ t.ctl = { s.ctl with awSub := true, jobState := .awaitingStatus }
      ∧ t.buf = s.buf ∧ t.res = s.res ∧ t.ser = { s.ser with txCnt := s.params.wire.statreqBytes.length }
      ∧ KeepsInputs s t

/-- 44_protocol_encoder.md R177, R180, 60_exceptions.md R246, R247: a write that LINK fails or lets time out ends the job
with its error, delivering a prefix; the reset frame follows a timeout, and an `IoError` only where the configuration
says so; it is attempted once and its outcome is ignored. That INIT, MEDIA, RASTER, PRINT and STATREQ as instructions mean
their transmission is the model's reading (log entry 11). -/
def Obligations.FailedWriteEndsTheJob : Prop :=
  ∀ (s : State) (i : Instr) (f : List Byte), s.sentFrame i = some f →
    (∀ code delivered, s.nextWrite = .ioError code delivered →
      ∃ t, exec i s = .next t ∧ FailedWith s t 0x21 code ∧ SameStatus s t
        ∧ ∃ d r, d <+: f ∧ r <+: s.params.wire.initBytes ∧ t.env.txLog = s.env.txLog ++ d ++ r
          ∧ (if s.params.cfg.resetOnIoError then
              t.env.calls = s.env.calls
                ++ [.write f s.job.timeout, .write s.params.wire.initBytes s.job.timeout]
            else r = [] ∧ t.env.calls = s.env.calls ++ [.write f s.job.timeout]))
    ∧ (∀ delivered, s.nextWrite = .timeout delivered →
      ∃ t, exec i s = .next t ∧ FailedWith s t 0x22 0 ∧ SameStatus s t
        ∧ ∃ d r, d <+: f ∧ r <+: s.params.wire.initBytes ∧ t.env.txLog = s.env.txLog ++ d ++ r
          ∧ t.env.calls = s.env.calls
            ++ [.write f s.job.timeout, .write s.params.wire.initBytes s.job.timeout])

/-- `TX` stops where the queue has no frame at `FRAME_IDX`: an access outside its space, which 20_memory.md R61 says no
rule issues (the model's own fault, log entry 7; `StepsWithoutFault` says that no state of the invariant reaches it). -/
def Obligations.TxWithoutFrameFaults : Prop :=
  ∀ s : State, s.buf.txq.length ≤ s.ctl.frameIdx.toNat → exec .tx s = .fault .txqIndexOutsideQueue

/-! ## The status reply -/

/-- 45_protocol_decoder.md R190, R200: a whole reply that passes the check and reports no error flag ends the job in
`Done`, with the decoded frame and the raw bytes readable and nothing sent after it. That the reply as an instruction
means its reception is the model's reading (log entry 12). The parser ends in `RX_OK` with the length of the burst (R199);
that these registers keep those values after the operation is the model's choice (log entry 9). -/
def Obligations.GoodReplyEndsInDone : Prop :=
  ∀ (s : State) (i : Instr) (b : List Byte), s.receivedReply i = some b →
    b.length = s.params.wire.statusLen → s.params.wire.statusCheck.holds b = true →
    (decodeStatus s.params.wire b).flags = ⟨false, false, false, false, false⟩ →
    ∃ t, exec i s = .next t
      ∧ t.ctl = { s.ctl with jobState := .done, devOwn := false, cancelPend := false }
      ∧ t.res.stValid = true ∧ t.res.stFrame = decodeStatus s.params.wire b ∧ (∀ j, t.stRawCell j = b.getD j 0)
      ∧ t.res = { s.res with stValid := true, stFrame := t.res.stFrame, stRaw := t.res.stRaw }
      ∧ t.env.txLog = s.env.txLog
      ∧ t.env.calls = s.env.calls ++ [.read s.params.wire.statusLen s.job.timeout]
      ∧ t.ser = { s.ser with rxState := .ok, rxCnt := b.length } ∧ KeepsInputs s t

/-- 45_protocol_decoder.md R200, 60_exceptions.md R247 (f): a reply with error flags ends the job in `Failed`; all flags
are reported together, the frame stays readable, and nothing is sent after it. That the reply as an instruction means its
reception is the model's reading (log entry 12). -/
def Obligations.FaultReplyIsReported : Prop :=
  ∀ (s : State) (i : Instr) (b : List Byte), s.receivedReply i = some b →
    b.length = s.params.wire.statusLen → s.params.wire.statusCheck.holds b = true →
    let f := (decodeStatus s.params.wire b).flags
    (f.noMedia || f.coverOpen || f.paperJam || f.unrecoverable || f.unrecognized) = true →
    ∃ t, exec i s = .next t
      ∧ FailedWith s t 0x41 (t.readRegister 0x05 >>> 10 &&& 0x1F#32)
      ∧ t.res.errInfo = (if f.noMedia then 1 else 0) + (if f.coverOpen then 2 else 0) + (if f.paperJam then 4 else 0)
          + (if f.unrecoverable then 8 else 0) + (if f.unrecognized then 16 else 0)
      ∧ t.res.stValid = true ∧ t.res.stFrame = decodeStatus s.params.wire b ∧ (∀ j, t.stRawCell j = b.getD j 0)
      ∧ t.env.txLog = s.env.txLog
      ∧ t.env.calls = s.env.calls ++ [.read s.params.wire.statusLen s.job.timeout]

/-- 45_protocol_decoder.md R191, R192: a short reply, or a whole one that fails the check, ends the job with
`MalformedStatus`; the status registers are not written and nothing is sent after it. That the reply as an instruction,
well-formed or not, means its reception is the model's reading (log entry 12). The parser's verdict is that of R199; that
`RX_STATE` keeps it after the operation is the model's choice (log entry 9). -/
def Obligations.MalformedReplyIsReported : Prop :=
  ∀ (s : State) (i : Instr) (b : List Byte), s.receivedReply i = some b →
    b.length < s.params.wire.statusLen ∨ s.params.wire.statusCheck.holds b = false →
    ∃ t, exec i s = .next t ∧ FailedWith s t 0x31 0 ∧ SameStatus s t
      ∧ t.env.txLog = s.env.txLog
      ∧ t.env.calls = s.env.calls ++ [.read s.params.wire.statusLen s.job.timeout]
      ∧ t.ser.rxState = (if b.length < s.params.wire.statusLen then .short else .badCheck)

/-- 45_protocol_decoder.md R190, 60_exceptions.md R246: a read that LINK fails or lets time out ends the job; the reset
frame follows a timeout, and an `IoError` only where the configuration says so. -/
def Obligations.FailedReadEndsTheJob : Prop :=
  ∀ s : State,
    let read := LinkCall.read s.params.wire.statusLen s.job.timeout
    let reset := LinkCall.write s.params.wire.initBytes s.job.timeout
    (∀ code, s.nextRead s.params.wire.statusLen = .ioError code →
      ∃ t, exec .statusOp s = .next t ∧ FailedWith s t 0x21 code ∧ SameStatus s t
        ∧ t.env.calls = s.env.calls ++ (if s.params.cfg.resetOnIoError then [read, reset] else [read])
        ∧ ∃ r, r <+: s.params.wire.initBytes ∧ t.env.txLog = s.env.txLog ++ r
          ∧ (s.params.cfg.resetOnIoError = false → r = []))
    ∧ (s.nextRead s.params.wire.statusLen = .timeout →
      ∃ t, exec .statusOp s = .next t ∧ FailedWith s t 0x22 0 ∧ SameStatus s t
        ∧ t.env.calls = s.env.calls ++ [read, reset]
        ∧ ∃ r, r <+: s.params.wire.initBytes ∧ t.env.txLog = s.env.txLog ++ r)

/-- 30_encoding.md R92, 45_protocol_decoder.md R193 to R198, for `WIRE_REF`: every field of a reply, whatever its padding
bytes. -/
def Obligations.ReferenceReplyFields : Prop :=
  ∀ magic width type err phase r5 r6 r7 : Byte,
    let f := decodeStatus wireRef [magic, width, type, err, phase, r5, r6, r7]
    f.mediaWidthMm = width
    ∧ f.mediaType = (if type = 0 then .continuous else if type = 1 then .dieCut else .unknown)
    ∧ f.flags.noMedia = err.getLsbD 0 ∧ f.flags.coverOpen = err.getLsbD 1 ∧ f.flags.paperJam = err.getLsbD 2
    ∧ f.flags.unrecoverable = err.getLsbD 3
    ∧ f.flags.unrecognized = (decide (16 ≤ err.toNat) || decide (3 ≤ phase.toNat))
    ∧ f.phase = (if phase = 0 then .receiving else if phase = 1 then .printing
        else if phase = 2 then .cooling else .unrecognized)

/-- 45_protocol_decoder.md R201: decoding a synthetic reply, for every implementation, recovers the width, the type, the
four flags and the phase it was built from, with `UNRECOGNIZED` = 0. -/
def Obligations.SyntheticReplyRoundTrip : Prop :=
  ∀ (p : Params) (reply : List Byte) (width : Byte) (type : MediaType) (flags : FlagPos → Bool) (phase : Phase),
    let w := p.wire
    reply.length = w.statusLen → w.statusCheck.holds reply = true →
    replyByte reply w.offWidth = width →
    (w.typeMap.lookup (replyByte reply w.offType)).getD .unknown = type →
    (∀ i n, i < w.offErr.length → n < 8 →
      (replyByte reply (w.offErr.getD i 0)).getLsbD n = (decide (⟨i, n⟩ ∈ w.errMap) && flags ⟨i, n⟩)) →
    w.phaseMap.lookup (replyByte reply w.offPhase) = some phase →
    decodeStatus w reply =
      { mediaWidthMm := width, mediaType := type, phase := phase,
        flags := { noMedia := flags w.noMedia, coverOpen := flags w.coverOpen, paperJam := flags w.paperJam,
                   unrecoverable := flags w.unrecoverable, unrecognized := false } }

/-- 45_protocol_decoder.md R199: the byte-serial parser keeps the burst and its length, and reaches the state that the
functional form reports, for every burst LINK can deliver. -/
def Obligations.SerialParserAgrees : Prop :=
  ∀ (s : State) (b : List Byte), b.length ≤ s.params.wire.statusLen →
    (parseBurst s.params.wire b).buf = b ∧ (parseBurst s.params.wire b).cnt = b.length
    ∧ (parseBurst s.params.wire b).state = (s.receiveReply b).ser.rxState
    ∧ ((parseBurst s.params.wire b).state = .short ↔ b.length < s.params.wire.statusLen)
    ∧ ((parseBurst s.params.wire b).state = .ok ↔
        b.length = s.params.wire.statusLen ∧ s.params.wire.statusCheck.holds b = true)

/-! ## Cancellation and the whole machine -/

/-- 46_job_fsm.md R217, 60_exceptions.md R244: a pending cancellation is taken by the next core step, before the
operation; in states 6 and 7 the reset frame is attempted first, before that nothing is sent. -/
def Obligations.CancelTakenByTheNextStep : Prop :=
  ∀ s : State, s.nextEvent = .core → s.busy = true → s.ctl.cancelPend = true →
    ∃ t, step s = .next t ∧ FailedWith s.popEvent t 0x51 0 ∧ SameStatus s t
      ∧ (if s.ctl.jobState = .transferring ∨ s.ctl.jobState = .awaitingStatus then
          t.env.calls = s.env.calls ++ [.write s.params.wire.initBytes s.job.timeout]
          ∧ ∃ r, r <+: s.params.wire.initBytes ∧ t.env.txLog = s.env.txLog ++ r
        else NothingSent s t)

/-- The invariant is kept by every step, from every state that has it. -/
def Obligations.InvariantKeptByEveryStep : Prop :=
  ∀ s t : State, Inv s → step s = .next t → Inv t

/-- 46_job_fsm.md R221: the handle is owned exactly while the core is busy, after every step; and only a step that begins
with the handle owned makes a call on LINK. -/
def Obligations.HandleOwnedExactlyWhileBusy : Prop :=
  ∀ s t : State, HandleInv s → step s = .next t →
    HandleInv t ∧ (t.env.calls ≠ s.env.calls → s.ctl.devOwn = true)

/-- 46_job_fsm.md R218: the transitions of `JOB_STATE` that a step can make; no other exists. -/
def Obligations.OnlyTabledTransitions : Prop :=
  ∀ s t : State, step s = .next t → t.ctl.jobState ≠ s.ctl.jobState →
    (t.ctl.jobState = .idle ∧ s.nextEvent = .hardwareReset)
    ∨ (t.ctl.jobState = .scaling ∧ s.busy = false ∧ ∃ v, s.nextEvent = .writeReg 0 v ∧ v.getLsbD 0 = true)
    ∨ (s.busy = true ∧ s.nextEvent = .core
      ∧ (t.ctl.jobState = .failed
        ∨ (s.ctl.jobState, t.ctl.jobState) ∈
          [(.scaling, .correctingGamma), (.correctingGamma, .dithering), (.dithering, .packing), (.packing, .encoding),
            (.encoding, .transferring), (.transferring, .awaitingStatus), (.awaitingStatus, .done)]))

/-- 46_job_fsm.md R219: every core step of a job either ends it or advances the control position strictly. -/
def Obligations.CoreStepsAdvance : Prop :=
  ∀ s t : State, Inv s → s.nextEvent = .core → s.busy = true → step s = .next t →
    t.busy = false ∨ s.progress < t.progress

/-- 70_reset_and_hazards.md R275: from every state of the invariant every event leads on; a host access, a command or a
hardware reset does so from every state. -/
def Obligations.StepsWithoutFault : Prop :=
  ∀ s : State, Inv s ∨ s.nextEvent ≠ .core → ∃ t, step s = .next t

/-- 20_memory.md R70 (a), R78: no step takes a byte back; without a hardware reset the log and the calls made only
grow. -/
def Obligations.LogOnlyGrows : Prop :=
  ∀ s t : State, step s = .next t → s.nextEvent ≠ .hardwareReset →
    s.env.txLog <+: t.env.txLog ∧ s.env.calls <+: t.env.calls

/-- 44_protocol_encoder.md R171, 20_memory.md R70 (b): left to itself with a link that accepts every frame, the core
sends the frames of the queue in order, one call each and nothing else, and then awaits the status. -/
def Obligations.QueueIsSentInOrder : Prop :=
  ∀ (s : State) (rest : List WriteAnswer), s.ctl.jobState = .transferring → s.ctl.frameIdx = 0 →
    s.ctl.cancelPend = false → s.env.schedule = [] → 0 < s.buf.txq.length → s.buf.txq.length < 2 ^ 32 →
    s.env.writeAnswers = List.replicate s.buf.txq.length .ok ++ rest →
    ∃ t, Sys2Proof.core.run s.buf.txq.length s = .next t
      ∧ t.ctl.jobState = .awaitingStatus ∧ t.ctl.frameIdx.toNat = s.buf.txq.length
      ∧ t.env.txLog = s.env.txLog ++ s.buf.txq.flatten
      ∧ t.env.calls = s.env.calls ++ s.buf.txq.map fun f => .write f s.job.timeout

/-- 46_job_fsm.md R219, 70_reset_and_hazards.md R277: a successful job, in every fit mode, takes exactly `N_LINES + 10`
core steps, is busy until the last of them, and makes `N_LINES + 4` writes and one read: Initialize, SetMediaParameters,
one frame per line of the raster that `SCALE`, `GAMMA`, `DITHER` and `PACK` make of the image, PrintAndEject,
StatusRequest, and the status read. -/
def Obligations.SuccessfulJobRuns : Prop :=
  ∀ (s : State) (b : List Byte) (moreWrites : List WriteAnswer) (moreReads : List ReadAnswer),
    let c := s.params.cfg
    let w := s.params.wire
    let hc := (2 * s.job.imgHeight.toNat * c.width + s.job.imgWidth.toNat) / (2 * s.job.imgWidth.toNat)
    let n := if hc ≤ c.maxLines then max 1 hc else c.maxLines
    s.ctl.jobState = .scaling → s.ctl.cancelPend = false → s.env.schedule = [] →
    0 < s.job.imgWidth.toNat → 0 < s.job.imgHeight.toNat → hc ≤ c.maxLines ∨ s.job.fitMode ≠ .rejectOversized →
    c.width ≤ c.head →
    s.env.writeAnswers = List.replicate (n + 4) .ok ++ moreWrites → s.env.readAnswers = .ok b :: moreReads →
    b.length = w.statusLen → w.statusCheck.holds b = true →
    (decodeStatus w b).flags = ⟨false, false, false, false, false⟩ →
    (∀ j, j < n + 10 → ∃ u, Sys2Proof.core.run j s = .next u ∧ u.busy = true)
    ∧ ∃ s₁ s₂ s₃ u t : State,
      exec .scale s = .next s₁ ∧ exec .gamma s₁ = .next s₂ ∧ exec .dither s₂ = .next s₃ ∧ exec .pack s₃ = .next u
      ∧ u.buf.raster.length = n * c.bytes
      ∧ Sys2Proof.core.run (n + 10) s = .next t
      ∧ t.ctl.jobState = .done ∧ t.ctl.devOwn = false ∧ t.res.nLines.toNat = n ∧ t.ctl.frameIdx.toNat = n + 3
      ∧ t.res.stFrame = decodeStatus w b
      ∧ let frames := [w.initBytes, w.mediaTag ++ [s.job.mediaId] ++ fieldBytes n w.lenWidth w.lenOrder]
          ++ (List.range n).map (fun r => w.rasterTag ++ fieldBytes c.bytes w.rlenWidth w.lenOrder
              ++ (u.buf.raster.drop (r * c.bytes)).take c.bytes)
          ++ [w.printBytes, w.statreqBytes]
        t.env.txLog = s.env.txLog ++ frames.flatten
        ∧ t.env.calls = s.env.calls ++ frames.map (fun f => .write f s.job.timeout)
            ++ [.read w.statusLen s.job.timeout]
end

