-- ==== Sys2Proof/Laws/State.lean ====
section
/-! SUPPORT. The small lemmas of every named update of State: what it leaves unchanged and what it sets, one field at a
time, so that no later proof unfolds an update. -/

namespace Sys2Proof.Machine

/-! ## discardBuffers -/

@[simp] theorem State.discardBuffers_params (s : State) : (s.discardBuffers).params = s.params := rfl
@[simp] theorem State.discardBuffers_job (s : State) : (s.discardBuffers).job = s.job := rfl
@[simp] theorem State.discardBuffers_lut (s : State) : (s.discardBuffers).lut = s.lut := rfl
@[simp] theorem State.discardBuffers_img (s : State) : (s.discardBuffers).img = s.img := rfl
@[simp] theorem State.discardBuffers_ctl (s : State) : (s.discardBuffers).ctl = s.ctl := rfl
@[simp] theorem State.discardBuffers_res (s : State) : (s.discardBuffers).res = s.res := rfl
@[simp] theorem State.discardBuffers_ser (s : State) : (s.discardBuffers).ser = s.ser := rfl
@[simp] theorem State.discardBuffers_buf (s : State) : s.discardBuffers.buf = Buffers.reset := rfl
@[simp] theorem State.discardBuffers_env (s : State) : s.discardBuffers.env = { s.env with bufEpoch := s.env.bufEpoch + 1 } := rfl

/-! ## discardSent -/

@[simp] theorem State.discardSent_params (s : State) : (s.discardSent).params = s.params := rfl
@[simp] theorem State.discardSent_job (s : State) : (s.discardSent).job = s.job := rfl
@[simp] theorem State.discardSent_lut (s : State) : (s.discardSent).lut = s.lut := rfl
@[simp] theorem State.discardSent_img (s : State) : (s.discardSent).img = s.img := rfl
@[simp] theorem State.discardSent_ctl (s : State) : (s.discardSent).ctl = s.ctl := rfl
@[simp] theorem State.discardSent_res (s : State) : (s.discardSent).res = s.res := rfl
@[simp] theorem State.discardSent_ser (s : State) : (s.discardSent).ser = s.ser := rfl
@[simp] theorem State.discardSent_buf (s : State) : s.discardSent.buf = { s.buf with raster := [], txq := [] } := rfl
@[simp] theorem State.discardSent_env (s : State) : s.discardSent.env = { s.env with bufEpoch := s.env.bufEpoch + 1 } := rfl

/-! ## devWrite, devRead, startParser -/

@[simp] theorem State.devWrite_params (b : List Byte) (s : State) : (s.devWrite b).params = s.params := rfl
@[simp] theorem State.devWrite_job (b : List Byte) (s : State) : (s.devWrite b).job = s.job := rfl
@[simp] theorem State.devWrite_lut (b : List Byte) (s : State) : (s.devWrite b).lut = s.lut := rfl
@[simp] theorem State.devWrite_img (b : List Byte) (s : State) : (s.devWrite b).img = s.img := rfl
@[simp] theorem State.devWrite_ctl (b : List Byte) (s : State) : (s.devWrite b).ctl = s.ctl := rfl
@[simp] theorem State.devWrite_res (b : List Byte) (s : State) : (s.devWrite b).res = s.res := rfl
@[simp] theorem State.devWrite_buf (b : List Byte) (s : State) : (s.devWrite b).buf = s.buf := rfl
@[simp] theorem State.devWrite_ser (b : List Byte) (s : State) : (s.devWrite b).ser = { s.ser with txCnt := b.length } := rfl
@[simp] theorem State.devWrite_txLog (b : List Byte) (s : State) : (s.devWrite b).env.txLog = s.env.txLog ++ appendedBytes b s.nextWrite := rfl
@[simp] theorem State.devWrite_schedule (b : List Byte) (s : State) : (s.devWrite b).env.schedule = s.env.schedule := rfl
@[simp] theorem State.devWrite_writeAnswers (b : List Byte) (s : State) : (s.devWrite b).env.writeAnswers = s.env.writeAnswers.tail := rfl
@[simp] theorem State.devWrite_readAnswers (b : List Byte) (s : State) : (s.devWrite b).env.readAnswers = s.env.readAnswers := rfl
@[simp] theorem State.devWrite_calls (b : List Byte) (s : State) : (s.devWrite b).env.calls = s.env.calls ++ [.write b s.job.timeout] := rfl
@[simp] theorem State.devWrite_hostRd (b : List Byte) (s : State) : (s.devWrite b).env.hostRd = s.env.hostRd := rfl
@[simp] theorem State.devWrite_imgEpoch (b : List Byte) (s : State) : (s.devWrite b).env.imgEpoch = s.env.imgEpoch := rfl
@[simp] theorem State.devWrite_absentReads (b : List Byte) (s : State) : (s.devWrite b).env.absentReads = s.env.absentReads := rfl
@[simp] theorem State.devWrite_bufEpoch (b : List Byte) (s : State) : (s.devWrite b).env.bufEpoch = s.env.bufEpoch := rfl
@[simp] theorem State.devRead_params (n : Nat) (s : State) : (s.devRead n).params = s.params := rfl
@[simp] theorem State.devRead_job (n : Nat) (s : State) : (s.devRead n).job = s.job := rfl
@[simp] theorem State.devRead_lut (n : Nat) (s : State) : (s.devRead n).lut = s.lut := rfl
@[simp] theorem State.devRead_img (n : Nat) (s : State) : (s.devRead n).img = s.img := rfl
@[simp] theorem State.devRead_ctl (n : Nat) (s : State) : (s.devRead n).ctl = s.ctl := rfl
@[simp] theorem State.devRead_res (n : Nat) (s : State) : (s.devRead n).res = s.res := rfl
@[simp] theorem State.devRead_buf (n : Nat) (s : State) : (s.devRead n).buf = s.buf := rfl
@[simp] theorem State.devRead_ser (n : Nat) (s : State) : (s.devRead n).ser = s.ser := rfl
@[simp] theorem State.devRead_txLog (n : Nat) (s : State) : (s.devRead n).env.txLog = s.env.txLog := rfl
@[simp] theorem State.devRead_schedule (n : Nat) (s : State) : (s.devRead n).env.schedule = s.env.schedule := rfl
@[simp] theorem State.devRead_writeAnswers (n : Nat) (s : State) : (s.devRead n).env.writeAnswers = s.env.writeAnswers := rfl
@[simp] theorem State.devRead_readAnswers (n : Nat) (s : State) : (s.devRead n).env.readAnswers = s.env.readAnswers.tail := rfl
@[simp] theorem State.devRead_calls (n : Nat) (s : State) : (s.devRead n).env.calls = s.env.calls ++ [.read n s.job.timeout] := rfl
@[simp] theorem State.devRead_hostRd (n : Nat) (s : State) : (s.devRead n).env.hostRd = s.env.hostRd := rfl
@[simp] theorem State.devRead_imgEpoch (n : Nat) (s : State) : (s.devRead n).env.imgEpoch = s.env.imgEpoch := rfl
@[simp] theorem State.devRead_absentReads (n : Nat) (s : State) : (s.devRead n).env.absentReads = s.env.absentReads := rfl
@[simp] theorem State.devRead_bufEpoch (n : Nat) (s : State) : (s.devRead n).env.bufEpoch = s.env.bufEpoch := rfl
@[simp] theorem State.startParser_params (s : State) : (s.startParser).params = s.params := rfl
@[simp] theorem State.startParser_job (s : State) : (s.startParser).job = s.job := rfl
@[simp] theorem State.startParser_lut (s : State) : (s.startParser).lut = s.lut := rfl
@[simp] theorem State.startParser_img (s : State) : (s.startParser).img = s.img := rfl
@[simp] theorem State.startParser_ctl (s : State) : (s.startParser).ctl = s.ctl := rfl
@[simp] theorem State.startParser_res (s : State) : (s.startParser).res = s.res := rfl
@[simp] theorem State.startParser_buf (s : State) : (s.startParser).buf = s.buf := rfl
@[simp] theorem State.startParser_env (s : State) : (s.startParser).env = s.env := rfl
@[simp] theorem State.startParser_ser (s : State) : s.startParser.ser = { s.ser with rxState := .collect, rxCnt := 0 } := rfl

/-! ## the reset frame and the abort sequence -/

@[simp] theorem State.resetFrame_params (e : PrintError) (s : State) : (s.resetFrame e).params = s.params := by
  unfold State.resetFrame; split <;> rfl
@[simp] theorem State.resetFrame_job (e : PrintError) (s : State) : (s.resetFrame e).job = s.job := by
  unfold State.resetFrame; split <;> rfl
@[simp] theorem State.resetFrame_lut (e : PrintError) (s : State) : (s.resetFrame e).lut = s.lut := by
  unfold State.resetFrame; split <;> rfl
@[simp] theorem State.resetFrame_img (e : PrintError) (s : State) : (s.resetFrame e).img = s.img := by
  unfold State.resetFrame; split <;> rfl
@[simp] theorem State.resetFrame_ctl (e : PrintError) (s : State) : (s.resetFrame e).ctl = s.ctl := by
  unfold State.resetFrame; split <;> rfl
@[simp] theorem State.resetFrame_res (e : PrintError) (s : State) : (s.resetFrame e).res = s.res := by
  unfold State.resetFrame; split <;> rfl
@[simp] theorem State.resetFrame_buf (e : PrintError) (s : State) : (s.resetFrame e).buf = s.buf := by
  unfold State.resetFrame; split <;> rfl
@[simp] theorem State.resetFrame_txLog (e : PrintError) (s : State) : (s.resetFrame e).env.txLog
    = s.env.txLog ++ if needsReset s.params.cfg e s.ctl.jobState then appendedBytes (frameInit s.params.wire) s.nextWrite else [] := by
  unfold State.resetFrame; split <;> simp
@[simp] theorem State.resetFrame_calls (e : PrintError) (s : State) : (s.resetFrame e).env.calls
    = s.env.calls ++ if needsReset s.params.cfg e s.ctl.jobState then [.write (frameInit s.params.wire) s.job.timeout] else [] := by
  unfold State.resetFrame; split <;> simp
@[simp] theorem State.resetFrame_schedule (e : PrintError) (s : State) : (s.resetFrame e).env.schedule = s.env.schedule := by
  unfold State.resetFrame; split <;> rfl
@[simp] theorem State.resetFrame_readAnswers (e : PrintError) (s : State) : (s.resetFrame e).env.readAnswers = s.env.readAnswers := by
  unfold State.resetFrame; split <;> rfl
@[simp] theorem State.resetFrame_hostRd (e : PrintError) (s : State) : (s.resetFrame e).env.hostRd = s.env.hostRd := by
  unfold State.resetFrame; split <;> rfl
@[simp] theorem State.resetFrame_imgEpoch (e : PrintError) (s : State) : (s.resetFrame e).env.imgEpoch = s.env.imgEpoch := by
  unfold State.resetFrame; split <;> rfl
@[simp] theorem State.resetFrame_absentReads (e : PrintError) (s : State) : (s.resetFrame e).env.absentReads = s.env.absentReads := by
  unfold State.resetFrame; split <;> rfl
@[simp] theorem State.resetFrame_bufEpoch (e : PrintError) (s : State) : (s.resetFrame e).env.bufEpoch = s.env.bufEpoch := by
  unfold State.resetFrame; split <;> rfl
@[simp] theorem State.abort_params (e : PrintError) (s : State) : (s.abort e).params = s.params := by
  simp [State.abort]
@[simp] theorem State.abort_job (e : PrintError) (s : State) : (s.abort e).job = s.job := by
  simp [State.abort]
@[simp] theorem State.abort_lut (e : PrintError) (s : State) : (s.abort e).lut = s.lut := by
  simp [State.abort]
@[simp] theorem State.abort_img (e : PrintError) (s : State) : (s.abort e).img = s.img := by
  simp [State.abort]
@[simp] theorem State.abort_buf (e : PrintError) (s : State) : (s.abort e).buf = Buffers.reset := by
  simp [State.abort]
@[simp] theorem State.abort_ctl (e : PrintError) (s : State) : (s.abort e).ctl
    = { s.ctl with cancelPend := false, devOwn := false, jobState := .failed } := by
  simp [State.abort]
@[simp] theorem State.abort_res (e : PrintError) (s : State) : (s.abort e).res
    = { s.res with errCode := e.code, errStage := s.ctl.jobState.code, errInfo := e.info } := by
  simp [State.abort]
@[simp] theorem State.abort_txLog (e : PrintError) (s : State) : (s.abort e).env.txLog
    = s.env.txLog ++ if needsReset s.params.cfg e s.ctl.jobState then appendedBytes (frameInit s.params.wire) s.nextWrite else [] := by
  simp [State.abort]
@[simp] theorem State.abort_calls (e : PrintError) (s : State) : (s.abort e).env.calls
    = s.env.calls ++ if needsReset s.params.cfg e s.ctl.jobState then [.write (frameInit s.params.wire) s.job.timeout] else [] := by
  simp [State.abort]
@[simp] theorem State.abort_schedule (e : PrintError) (s : State) : (s.abort e).env.schedule = s.env.schedule := by
  simp [State.abort]
@[simp] theorem State.abort_readAnswers (e : PrintError) (s : State) : (s.abort e).env.readAnswers = s.env.readAnswers := by
  simp [State.abort]
@[simp] theorem State.abort_hostRd (e : PrintError) (s : State) : (s.abort e).env.hostRd = s.env.hostRd := by
  simp [State.abort]
@[simp] theorem State.abort_imgEpoch (e : PrintError) (s : State) : (s.abort e).env.imgEpoch = s.env.imgEpoch := by
  simp [State.abort]
@[simp] theorem State.abort_absentReads (e : PrintError) (s : State) : (s.abort e).env.absentReads = s.env.absentReads := by
  simp [State.abort]
@[simp] theorem State.abort_bufEpoch (e : PrintError) (s : State) : (s.abort e).env.bufEpoch = s.env.bufEpoch + 1 := by
  simp [State.abort]

/-! ## enterDone, rearm, hardwareReset -/

@[simp] theorem State.enterDone_params (s : State) : (s.enterDone).params = s.params := rfl
@[simp] theorem State.enterDone_job (s : State) : (s.enterDone).job = s.job := rfl
@[simp] theorem State.enterDone_lut (s : State) : (s.enterDone).lut = s.lut := rfl
@[simp] theorem State.enterDone_img (s : State) : (s.enterDone).img = s.img := rfl
@[simp] theorem State.enterDone_res (s : State) : (s.enterDone).res = s.res := rfl
@[simp] theorem State.enterDone_ser (s : State) : (s.enterDone).ser = s.ser := rfl
@[simp] theorem State.enterDone_ctl (s : State) : s.enterDone.ctl
    = { s.ctl with cancelPend := false, devOwn := false, jobState := .done } := rfl
@[simp] theorem State.enterDone_buf (s : State) : s.enterDone.buf = Buffers.reset := rfl
@[simp] theorem State.enterDone_env (s : State) : s.enterDone.env = { s.env with bufEpoch := s.env.bufEpoch + 1 } := rfl
@[simp] theorem State.rearm_params (s : State) : (s.rearm).params = s.params := rfl
@[simp] theorem State.rearm_job (s : State) : (s.rearm).job = s.job := rfl
@[simp] theorem State.rearm_lut (s : State) : (s.rearm).lut = s.lut := rfl
@[simp] theorem State.rearm_img (s : State) : (s.rearm).img = s.img := rfl
@[simp] theorem State.rearm_buf (s : State) : (s.rearm).buf = s.buf := rfl
@[simp] theorem State.rearm_ser (s : State) : (s.rearm).ser = s.ser := rfl
@[simp] theorem State.rearm_env (s : State) : (s.rearm).env = s.env := rfl
@[simp] theorem State.rearm_ctl (s : State) : s.rearm.ctl
    = { s.ctl with frameIdx := 0, awSub := false, cancelPend := false, devOwn := true, jobState := .scaling } := rfl
@[simp] theorem State.rearm_res (s : State) : s.rearm.res
    = { Result.reset with stRaw := s.res.stRaw } := rfl
@[simp] theorem State.hardwareReset_params (s : State) : s.hardwareReset.params = s.params := rfl
@[simp] theorem State.hardwareReset_job (s : State) : s.hardwareReset.job = Job.reset := rfl
@[simp] theorem State.hardwareReset_lut (s : State) : s.hardwareReset.lut = [] := rfl
@[simp] theorem State.hardwareReset_img (s : State) : s.hardwareReset.img = [] := rfl
@[simp] theorem State.hardwareReset_ctl (s : State) : s.hardwareReset.ctl = Control.reset := rfl
@[simp] theorem State.hardwareReset_res (s : State) : s.hardwareReset.res = Result.reset := rfl
@[simp] theorem State.hardwareReset_buf (s : State) : s.hardwareReset.buf = Buffers.reset := rfl
@[simp] theorem State.hardwareReset_ser (s : State) : s.hardwareReset.ser = Serial.reset := rfl
@[simp] theorem State.hardwareReset_env (s : State) : s.hardwareReset.env
    = { s.env with txLog := [], imgEpoch := s.env.imgEpoch + 1, bufEpoch := s.env.bufEpoch + 1 } := rfl

/-! ## frameSent -/

@[simp] theorem State.frameSent_params (s : State) : (s.frameSent).params = s.params := by
  unfold State.frameSent; simp only []; split <;> rfl
@[simp] theorem State.frameSent_job (s : State) : (s.frameSent).job = s.job := by
  unfold State.frameSent; simp only []; split <;> rfl
@[simp] theorem State.frameSent_lut (s : State) : (s.frameSent).lut = s.lut := by
  unfold State.frameSent; simp only []; split <;> rfl
@[simp] theorem State.frameSent_img (s : State) : (s.frameSent).img = s.img := by
  unfold State.frameSent; simp only []; split <;> rfl
@[simp] theorem State.frameSent_res (s : State) : (s.frameSent).res = s.res := by
  unfold State.frameSent; simp only []; split <;> rfl
@[simp] theorem State.frameSent_ser (s : State) : (s.frameSent).ser = s.ser := by
  unfold State.frameSent; simp only []; split <;> rfl
@[simp] theorem State.frameSent_awSub (s : State) : s.frameSent.ctl.awSub = s.ctl.awSub := by
  unfold State.frameSent; simp only []; split <;> rfl
@[simp] theorem State.frameSent_devOwn (s : State) : s.frameSent.ctl.devOwn = s.ctl.devOwn := by
  unfold State.frameSent; simp only []; split <;> rfl
@[simp] theorem State.frameSent_cancelPend (s : State) : s.frameSent.ctl.cancelPend = s.ctl.cancelPend := by
  unfold State.frameSent; simp only []; split <;> rfl
@[simp] theorem State.frameSent_busyReject (s : State) : s.frameSent.ctl.busyReject = s.ctl.busyReject := by
  unfold State.frameSent; simp only []; split <;> rfl
@[simp] theorem State.frameSent_frameIdx (s : State) : s.frameSent.ctl.frameIdx = s.ctl.frameIdx + 1 := by
  unfold State.frameSent; simp only []; split <;> rfl
@[simp] theorem State.frameSent_txLog (s : State) : s.frameSent.env.txLog = s.env.txLog := by
  unfold State.frameSent; simp only []; split <;> rfl
@[simp] theorem State.frameSent_schedule (s : State) : s.frameSent.env.schedule = s.env.schedule := by
  unfold State.frameSent; simp only []; split <;> rfl
@[simp] theorem State.frameSent_writeAnswers (s : State) : s.frameSent.env.writeAnswers = s.env.writeAnswers := by
  unfold State.frameSent; simp only []; split <;> rfl
@[simp] theorem State.frameSent_readAnswers (s : State) : s.frameSent.env.readAnswers = s.env.readAnswers := by
  unfold State.frameSent; simp only []; split <;> rfl
@[simp] theorem State.frameSent_calls (s : State) : s.frameSent.env.calls = s.env.calls := by
  unfold State.frameSent; simp only []; split <;> rfl
@[simp] theorem State.frameSent_hostRd (s : State) : s.frameSent.env.hostRd = s.env.hostRd := by
  unfold State.frameSent; simp only []; split <;> rfl
@[simp] theorem State.frameSent_imgEpoch (s : State) : s.frameSent.env.imgEpoch = s.env.imgEpoch := by
  unfold State.frameSent; simp only []; split <;> rfl
@[simp] theorem State.frameSent_absentReads (s : State) : s.frameSent.env.absentReads = s.env.absentReads := by
  unfold State.frameSent; simp only []; split <;> rfl

/-! ## host accesses and the schedule -/

@[simp] theorem State.popEvent_params (s : State) : (s.popEvent).params = s.params := rfl
@[simp] theorem State.popEvent_job (s : State) : (s.popEvent).job = s.job := rfl
@[simp] theorem State.popEvent_lut (s : State) : (s.popEvent).lut = s.lut := rfl
@[simp] theorem State.popEvent_img (s : State) : (s.popEvent).img = s.img := rfl
@[simp] theorem State.popEvent_ctl (s : State) : (s.popEvent).ctl = s.ctl := rfl
@[simp] theorem State.popEvent_res (s : State) : (s.popEvent).res = s.res := rfl
@[simp] theorem State.popEvent_buf (s : State) : (s.popEvent).buf = s.buf := rfl
@[simp] theorem State.popEvent_ser (s : State) : (s.popEvent).ser = s.ser := rfl
@[simp] theorem State.popEvent_txLog (s : State) : s.popEvent.env.txLog = s.env.txLog := rfl
@[simp] theorem State.popEvent_writeAnswers (s : State) : s.popEvent.env.writeAnswers = s.env.writeAnswers := rfl
@[simp] theorem State.popEvent_readAnswers (s : State) : s.popEvent.env.readAnswers = s.env.readAnswers := rfl
@[simp] theorem State.popEvent_calls (s : State) : s.popEvent.env.calls = s.env.calls := rfl
@[simp] theorem State.popEvent_hostRd (s : State) : s.popEvent.env.hostRd = s.env.hostRd := rfl
@[simp] theorem State.popEvent_imgEpoch (s : State) : s.popEvent.env.imgEpoch = s.env.imgEpoch := rfl
@[simp] theorem State.popEvent_bufEpoch (s : State) : s.popEvent.env.bufEpoch = s.env.bufEpoch := rfl
@[simp] theorem State.popEvent_schedule (s : State) : s.popEvent.env.schedule = s.env.schedule.tail := rfl
@[simp] theorem State.hostReads_params (s : State) (v : Word) : (s.hostReads v).params = s.params := rfl
@[simp] theorem State.hostReads_job (s : State) (v : Word) : (s.hostReads v).job = s.job := rfl
@[simp] theorem State.hostReads_lut (s : State) (v : Word) : (s.hostReads v).lut = s.lut := rfl
@[simp] theorem State.hostReads_img (s : State) (v : Word) : (s.hostReads v).img = s.img := rfl
@[simp] theorem State.hostReads_ctl (s : State) (v : Word) : (s.hostReads v).ctl = s.ctl := rfl
@[simp] theorem State.hostReads_res (s : State) (v : Word) : (s.hostReads v).res = s.res := rfl
@[simp] theorem State.hostReads_buf (s : State) (v : Word) : (s.hostReads v).buf = s.buf := rfl
@[simp] theorem State.hostReads_ser (s : State) (v : Word) : (s.hostReads v).ser = s.ser := rfl
@[simp] theorem State.hostReads_env (s : State) (v : Word) : (s.hostReads v).env = { s.env with hostRd := v } := rfl
@[simp] theorem State.hostReadsAbsent_params (s : State) (i : Nat) : (s.hostReadsAbsent i).params = s.params := rfl
@[simp] theorem State.hostReadsAbsent_job (s : State) (i : Nat) : (s.hostReadsAbsent i).job = s.job := rfl
@[simp] theorem State.hostReadsAbsent_lut (s : State) (i : Nat) : (s.hostReadsAbsent i).lut = s.lut := rfl
@[simp] theorem State.hostReadsAbsent_img (s : State) (i : Nat) : (s.hostReadsAbsent i).img = s.img := rfl
@[simp] theorem State.hostReadsAbsent_ctl (s : State) (i : Nat) : (s.hostReadsAbsent i).ctl = s.ctl := rfl
@[simp] theorem State.hostReadsAbsent_res (s : State) (i : Nat) : (s.hostReadsAbsent i).res = s.res := rfl
@[simp] theorem State.hostReadsAbsent_buf (s : State) (i : Nat) : (s.hostReadsAbsent i).buf = s.buf := rfl
@[simp] theorem State.hostReadsAbsent_ser (s : State) (i : Nat) : (s.hostReadsAbsent i).ser = s.ser := rfl
@[simp] theorem State.hostReadsAbsent_env (s : State) (i : Nat) : (s.hostReadsAbsent i).env = { s.env with
    hostRd := (Config.absentCell s.env.absentReads i).setWidth 32, absentReads := s.env.absentReads + 1 } := rfl
@[simp] theorem State.popEvent_absentReads (s : State) : s.popEvent.env.absentReads = s.env.absentReads := rfl
@[simp] theorem State.writeRegister_params (s : State) (n : Nat) (v : Word) : (s.writeRegister n v).params = s.params := by
  unfold State.writeRegister; split <;> rfl
@[simp] theorem State.writeRegister_lut (s : State) (n : Nat) (v : Word) : (s.writeRegister n v).lut = s.lut := by
  unfold State.writeRegister; split <;> rfl
@[simp] theorem State.writeRegister_img (s : State) (n : Nat) (v : Word) : (s.writeRegister n v).img = s.img := by
  unfold State.writeRegister; split <;> rfl
@[simp] theorem State.writeRegister_ctl (s : State) (n : Nat) (v : Word) : (s.writeRegister n v).ctl = s.ctl := by
  unfold State.writeRegister; split <;> rfl
@[simp] theorem State.writeRegister_res (s : State) (n : Nat) (v : Word) : (s.writeRegister n v).res = s.res := by
  unfold State.writeRegister; split <;> rfl
@[simp] theorem State.writeRegister_buf (s : State) (n : Nat) (v : Word) : (s.writeRegister n v).buf = s.buf := by
  unfold State.writeRegister; split <;> rfl
@[simp] theorem State.writeRegister_ser (s : State) (n : Nat) (v : Word) : (s.writeRegister n v).ser = s.ser := by
  unfold State.writeRegister; split <;> rfl
@[simp] theorem State.writeRegister_env (s : State) (n : Nat) (v : Word) : (s.writeRegister n v).env = s.env := by
  unfold State.writeRegister; split <;> rfl
@[simp] theorem State.writeRegister_job (s : State) (n : Nat) (v : Word) : (s.writeRegister n v).job = if s.busy then s.job else s.job.writeRegister n v := by
  unfold State.writeRegister; split <;> rfl
@[simp] theorem State.writeLut_params (s : State) (i v : Byte) : (s.writeLut i v).params = s.params := by
  unfold State.writeLut; split <;> rfl
@[simp] theorem State.writeLut_job (s : State) (i v : Byte) : (s.writeLut i v).job = s.job := by
  unfold State.writeLut; split <;> rfl
@[simp] theorem State.writeLut_img (s : State) (i v : Byte) : (s.writeLut i v).img = s.img := by
  unfold State.writeLut; split <;> rfl
@[simp] theorem State.writeLut_ctl (s : State) (i v : Byte) : (s.writeLut i v).ctl = s.ctl := by
  unfold State.writeLut; split <;> rfl
@[simp] theorem State.writeLut_res (s : State) (i v : Byte) : (s.writeLut i v).res = s.res := by
  unfold State.writeLut; split <;> rfl
@[simp] theorem State.writeLut_buf (s : State) (i v : Byte) : (s.writeLut i v).buf = s.buf := by
  unfold State.writeLut; split <;> rfl
@[simp] theorem State.writeLut_ser (s : State) (i v : Byte) : (s.writeLut i v).ser = s.ser := by
  unfold State.writeLut; split <;> rfl
@[simp] theorem State.writeLut_env (s : State) (i v : Byte) : (s.writeLut i v).env = s.env := by
  unfold State.writeLut; split <;> rfl
@[simp] theorem State.writeLut_lut (s : State) (i v : Byte) : (s.writeLut i v).lut = if s.busy then s.lut else s.lut.put lutDefault i.toNat v := by
  unfold State.writeLut; split <;> rfl
@[simp] theorem State.writeImg_params (s : State) (a : Nat) (v : Byte) : (s.writeImg a v).params = s.params := by
  unfold State.writeImg; split <;> rfl
@[simp] theorem State.writeImg_job (s : State) (a : Nat) (v : Byte) : (s.writeImg a v).job = s.job := by
  unfold State.writeImg; split <;> rfl
@[simp] theorem State.writeImg_lut (s : State) (a : Nat) (v : Byte) : (s.writeImg a v).lut = s.lut := by
  unfold State.writeImg; split <;> rfl
@[simp] theorem State.writeImg_ctl (s : State) (a : Nat) (v : Byte) : (s.writeImg a v).ctl = s.ctl := by
  unfold State.writeImg; split <;> rfl
@[simp] theorem State.writeImg_res (s : State) (a : Nat) (v : Byte) : (s.writeImg a v).res = s.res := by
  unfold State.writeImg; split <;> rfl
@[simp] theorem State.writeImg_buf (s : State) (a : Nat) (v : Byte) : (s.writeImg a v).buf = s.buf := by
  unfold State.writeImg; split <;> rfl
@[simp] theorem State.writeImg_ser (s : State) (a : Nat) (v : Byte) : (s.writeImg a v).ser = s.ser := by
  unfold State.writeImg; split <;> rfl
@[simp] theorem State.writeImg_env (s : State) (a : Nat) (v : Byte) : (s.writeImg a v).env = s.env := by
  unfold State.writeImg; split <;> rfl
@[simp] theorem State.writeImg_img (s : State) (a : Nat) (v : Byte) : (s.writeImg a v).img
    = if s.busy = true ∨ imgSpace ≤ a then s.img else s.img.put imgDefault a v := by
  unfold State.writeImg; split <;> rfl

end Sys2Proof.Machine
end

