-- ==== Sys2Proof/Laws/Memory.lean ====
section
/-! SUPPORT. The memory of listed cells: what a write does to a later read, and that every memory operation keeps the
canonical form. -/

namespace Sys2Proof.Machine

theorem Memory.rising_cons {a : Nat} {v : Byte} {m : Memory} :
    Memory.rising ((a, v) :: m) = true ↔ (∀ e ∈ m, a < e.1) ∧ Memory.rising m = true := by
  induction m generalizing a v with
  | nil => simp [Memory.rising]
  | cons e m ih =>
    obtain ⟨b, u⟩ := e
    simp only [Memory.rising, Bool.and_eq_true, decide_eq_true_eq, List.mem_cons, forall_eq_or_imp]
    constructor
    · rintro ⟨hab, hm⟩
      exact ⟨⟨hab, fun e he => lt_trans hab ((ih.1 hm).1 e he)⟩, hm⟩
    · rintro ⟨⟨hab, -⟩, hm⟩
      exact ⟨hab, hm⟩

theorem Memory.mem_erase {m : Memory} {a : Nat} {e : Host.Cell} (h : e ∈ Memory.erase m a) : e ∈ m := by
  induction m with
  | nil => simp [Memory.erase] at h
  | cons c m ih =>
    obtain ⟨b, u⟩ := c
    simp only [Memory.erase] at h
    split at h
    · exact List.mem_cons_of_mem _ h
    · rcases List.mem_cons.1 h with h | h
      · exact h ▸ List.mem_cons_self
      · exact List.mem_cons_of_mem _ (ih h)

theorem Memory.mem_insert {m : Memory} {a : Nat} {v : Byte} {e : Host.Cell} (h : e ∈ Memory.insert m a v) :
    e = (a, v) ∨ e ∈ m := by
  induction m with
  | nil => simpa [Memory.insert] using h
  | cons c m ih =>
    obtain ⟨b, u⟩ := c
    simp only [Memory.insert] at h
    split at h
    · simpa using h
    · split at h
      · rcases List.mem_cons.1 h with h | h
        · exact .inl h
        · exact .inr (List.mem_cons_of_mem _ h)
      · rcases List.mem_cons.1 h with h | h
        · exact .inr (h ▸ List.mem_cons_self)
        · exact (ih h).imp id (List.mem_cons_of_mem _)

theorem Memory.rising_erase {m : Memory} {a : Nat} (h : Memory.rising m = true) :
    Memory.rising (Memory.erase m a) = true := by
  induction m with
  | nil => rfl
  | cons c m ih =>
    obtain ⟨b, u⟩ := c
    have hc := Memory.rising_cons.1 h
    simp only [Memory.erase]
    split
    · exact hc.2
    · exact Memory.rising_cons.2 ⟨fun e he => hc.1 e (Memory.mem_erase he), ih hc.2⟩

theorem Memory.rising_insert {m : Memory} {a : Nat} {v : Byte} (h : Memory.rising m = true) :
    Memory.rising (Memory.insert m a v) = true := by
  induction m with
  | nil => rfl
  | cons c m ih =>
    obtain ⟨b, u⟩ := c
    have hc := Memory.rising_cons.1 h
    simp only [Memory.insert]
    split
    · rename_i hab
      refine Memory.rising_cons.2 ⟨fun e he => ?_, h⟩
      rcases List.mem_cons.1 he with he | he
      · exact he ▸ hab
      · exact lt_trans hab (hc.1 e he)
    · split
      · rename_i hab
        exact Memory.rising_cons.2 ⟨fun e he => hab ▸ hc.1 e he, hc.2⟩
      · rename_i h1 h2
        refine Memory.rising_cons.2 ⟨fun e he => ?_, ih hc.2⟩
        rcases Memory.mem_insert he with he | he
        · subst he
          simp only
          omega
        · exact hc.1 e he

/-- A write keeps the canonical form. -/
theorem Memory.wf_put {size : Nat} {dflt : Nat → Option Byte} {m : Memory} {a : Nat} {v : Byte}
    (h : Memory.wf size dflt m = true) (ha : a < size) : Memory.wf size dflt (Memory.put dflt m a v) = true := by
  simp only [Memory.wf, Bool.and_eq_true, List.all_eq_true, decide_eq_true_eq] at h ⊢
  unfold Memory.put
  split
  · exact ⟨Memory.rising_erase h.1, fun e he => h.2 e (Memory.mem_erase he)⟩
  · rename_i hv
    refine ⟨Memory.rising_insert h.1, fun e he => ?_⟩
    rcases Memory.mem_insert he with he | he
    · subst he
      exact ⟨ha, hv⟩
    · exact h.2 e he

/-- A run of writes keeps the canonical form. -/
theorem Memory.wf_putRun {size : Nat} {dflt : Nat → Option Byte} {vs : List Byte} {m : Memory} {a : Nat}
    (h : Memory.wf size dflt m = true) (ha : a + vs.length ≤ size) :
    Memory.wf size dflt (Memory.putRun dflt m a vs) = true := by
  induction vs generalizing m a with
  | nil => exact h
  | cons v vs ih =>
    simp only [List.length_cons] at ha
    exact ih (Memory.wf_put h (by omega)) (by omega)

theorem Memory.get?_eq_none {m : Memory} {a : Nat} (h : ∀ e ∈ m, a < e.1) : Memory.get? m a = none := by
  induction m with
  | nil => rfl
  | cons c m ih =>
    obtain ⟨b, u⟩ := c
    have hb : a < b := h _ List.mem_cons_self
    simp only [Memory.get?]
    rw [if_neg (by omega)]
    exact ih fun e he => h e (List.mem_cons_of_mem _ he)

theorem Memory.get?_erase {m : Memory} {a b : Nat} (h : Memory.rising m = true) :
    Memory.get? (Memory.erase m a) b = if b = a then none else Memory.get? m b := by
  induction m with
  | nil => simp [Memory.erase, Memory.get?]
  | cons c m ih =>
    obtain ⟨d, u⟩ := c
    have hc := Memory.rising_cons.1 h
    simp only [Memory.erase]
    split
    · rename_i had
      subst had
      by_cases hba : b = a
      · simp [hba, Memory.get?_eq_none hc.1]
      · simp [Memory.get?, hba]
    · rename_i had
      simp only [Memory.get?, ih hc.2]
      grind

theorem Memory.get?_insert {m : Memory} {a b : Nat} {v : Byte} :
    Memory.get? (Memory.insert m a v) b = if b = a then some v else Memory.get? m b := by
  induction m with
  | nil => simp [Memory.insert, Memory.get?]
  | cons c m ih =>
    obtain ⟨d, u⟩ := c
    simp only [Memory.insert]
    split
    · simp [Memory.get?]
    · split
      · rename_i had
        subst had
        simp only [Memory.get?]
        split <;> rfl
      · simp only [Memory.get?, ih]
        grind

/-- Reading after a write: the value written at its cell, every other cell as before. -/
theorem Memory.getD_put {dflt : Nat → Option Byte} {m : Memory} {a b : Nat} {v : Byte} (d : Byte)
    (h : Memory.rising m = true) :
    (Memory.get? (Memory.put dflt m a v) b).getD ((dflt b).getD d)
      = if b = a then v else (Memory.get? m b).getD ((dflt b).getD d) := by
  unfold Memory.put
  split
  · rename_i hv
    rw [Memory.get?_erase h]
    split
    · rename_i hba
      simp [hba, hv]
    · rfl
  · rw [Memory.get?_insert]
    split <;> simp

/-- A memory that lists nothing is in canonical form. -/
theorem Memory.wf_nil {size : Nat} {dflt : Nat → Option Byte} : Memory.wf size dflt [] = true := rfl

end Sys2Proof.Machine
end

