-- ==== Sys2Proof/Laws/Ops.lean ====
section
/-! SUPPORT. One lemma per shared operation that says what it does: the views of the buffers, rows, fields on the wire,
sums, the abort sequence, the link calls, and the step with its events. -/

namespace Sys2Proof.Machine

/-! ## Buffers and rows -/

@[simp] theorem viewCells_length {α : Type} (held : List α) (free : Nat → α) (n : Nat) :
    (viewCells held free n).length = n := by
  simp only [viewCells, List.length_append, List.length_take, List.length_map, List.length_range]
  omega

/-- A buffer that holds all cells asked for shows no free value. -/
theorem viewCells_of_le {α : Type} {held : List α} {free : Nat → α} {n : Nat} (h : n ≤ held.length) :
    viewCells held free n = held.take n := by
  simp [viewCells, Nat.sub_eq_zero_of_le h]

@[simp] theorem splitRows_length {α : Type} (width count : Nat) (cells : List α) :
    (splitRows width count cells).length = count := by
  induction count generalizing cells with
  | zero => rfl
  | succ n ih => simp [splitRows, ih]

/-- Row `r` holds the cells `r·width …` of the image. -/
theorem splitRows_getElem? {α : Type} {width count r : Nat} {cells : List α} (h : r < count) :
    (splitRows width count cells)[r]? = some ((cells.drop (r * width)).take width) := by
  induction count generalizing cells r with
  | zero => omega
  | succ n ih =>
    cases r with
    | zero => simp [splitRows]
    | succ r =>
      simp only [splitRows, List.getElem?_cons_succ]
      rw [ih (by omega), List.drop_drop, Nat.succ_mul, Nat.add_comm width]

/-- Every row of an image that is held whole has the image's width. -/
theorem length_of_mem_splitRows {α : Type} {width count : Nat} {cells row : List α}
    (h : count * width ≤ cells.length) (hr : row ∈ splitRows width count cells) : row.length = width := by
  induction count generalizing cells with
  | zero => simp [splitRows] at hr
  | succ n ih =>
    rw [Nat.succ_mul] at h
    simp only [splitRows, List.mem_cons] at hr
    rcases hr with rfl | hr
    · rw [List.length_take]
      omega
    · exact ih (by rw [List.length_drop]; omega) hr

theorem length_flatten_of_forall {α : Type} {n : Nat} {ls : List (List α)} (h : ∀ l ∈ ls, l.length = n) :
    ls.flatten.length = ls.length * n := by
  induction ls with
  | nil => simp
  | cons l ls ih =>
    simp only [List.flatten_cons, List.length_append, List.length_cons, h l List.mem_cons_self,
      ih fun m hm => h m (List.mem_cons_of_mem _ hm), Nat.succ_mul]
    omega

@[simp] theorem packLine_length (bytes : Nat) (m : List Bool) (off : Nat) : (packLine bytes m off).length = bytes := by
  simp [packLine]

theorem lumaCells_length (n : Nat) (cells : List Byte) (h : cells.length = 3 * n) : (lumaCells cells).length = n := by
  induction n generalizing cells with
  | zero =>
    obtain rfl := List.length_eq_zero_iff.1 h
    rfl
  | succ n ih =>
    match cells, h with
    | r :: g :: b :: rest, h =>
      simp only [List.length_cons] at h
      simp only [lumaCells, List.length_cons, ih rest (by omega)]
    | [], h => simp at h
    | [_], h => simp at h; omega
    | [_, _], h => simp at h; omega

/-- The luminance image has one sample per pixel. -/
theorem luminances_length {rgb : Bool} {n : Nat} {cells : List Byte} (h : cells.length = n * (if rgb then 3 else 1)) :
    (luminances rgb cells).length = n := by
  unfold luminances
  split at h
  · rw [if_pos (by assumption)]
    exact lumaCells_length n cells (by omega)
  · rw [if_neg (by assumption)]
    omega

/-! ## Fields and sums -/

@[simp] theorem fieldBytes_length (n width : Nat) (o : ByteOrder) : (fieldBytes n width o).length = width := by
  simp [fieldBytes]

theorem sumTo_eq_sum (n : Nat) (f : Nat → Nat) : sumTo n f = ∑ i ∈ Finset.range n, f i := by
  induction n with
  | zero => rfl
  | succ n ih => rw [sumTo, ih, Finset.sum_range_succ]

@[simp] theorem buildQueue_length (w : Wire) (id : Byte) (n : Nat) (lines : List (List Byte)) :
    (buildQueue w id n lines).length = lines.length + 3 := by
  simp [buildQueue]

@[simp] theorem rasterLines_length (s : State) : s.rasterLines.length = s.res.nLines.toNat := by
  simp [State.rasterLines]

@[simp] theorem packRows_length (s : State) : s.packRows.length = s.packCount := by
  simp [State.packRows]

/-- LINK delivers at most the bytes asked for. -/
theorem State.nextRead_length {s : State} {n : Nat} {burst : List Byte} (h : s.nextRead n = .ok burst) :
    burst.length ≤ n := by
  unfold State.nextRead at h
  split at h
  · cases h
    exact List.length_take_le _ _
  · cases h
  · cases h

/-! ## The ditherer's shape -/

theorem ditherRow_length (k : DiffusionKernel) (t : Int) (width height y x : Nat) (acc : List (List Int))
    (row : List Byte) : (ditherRow k t width height y x acc row).1.length = row.length := by
  induction row generalizing x acc with
  | nil => rfl
  | cons g gs ih => simp [ditherRow, ih]

theorem ditherRows_length (k : DiffusionKernel) (t : Int) (width height y : Nat) (acc : List (List Int))
    (rows : List (List Byte)) : (ditherRows k t width height y acc rows).1.length = rows.flatten.length := by
  induction rows generalizing y acc with
  | nil => rfl
  | cons row rows ih => simp [ditherRows, ih, ditherRow_length]

/-- `MONO` has one cell per cell of `GRAY`. -/
theorem ditherImage_length {k : DiffusionKernel} {t : Int} {width height : Nat} {gray : List Byte}
    (h : gray.length = height * width) : (ditherImage k t width height gray).1.length = height * width := by
  rw [ditherImage, ditherRows_length, length_flatten_of_forall fun l hl => length_of_mem_splitRows (by omega) hl,
    splitRows_length]

/-! ## Decoding the control position -/

/-- The operation of each control position (30_encoding.md R96). -/
theorem decodePosition_position (s : State) : decodePosition s.position =
    match s.ctl.jobState with
    | .idle => .error .noCoreStep
    | .scaling => .ok .scale
    | .correctingGamma => .ok .gamma
    | .dithering => .ok .dither
    | .packing => .ok .pack
    | .encoding => .ok .encode
    | .transferring => .ok .tx
    | .awaitingStatus => .ok (if s.ctl.awSub then .statusOp else .statreqOp)
    | .done => .error .noCoreStep
    | .failed => .error .noCoreStep := by
  unfold State.position
  cases s.ctl.jobState <;> cases s.ctl.awSub <;> rfl

/-! ## What every meaning leaves unchanged -/

/-- The part of State that no instruction writes: the parameters, the host-written registers, both table spaces, the
schedule and what the host last read. -/
structure State.SameInputs (s t : State) : Prop where
  params : t.params = s.params
  job : t.job = s.job
  lut : t.lut = s.lut
  img : t.img = s.img
  schedule : t.env.schedule = s.env.schedule
  hostRd : t.env.hostRd = s.env.hostRd
  imgEpoch : t.env.imgEpoch = s.env.imgEpoch

theorem State.SameInputs.rfl {s : State} : s.SameInputs s := ⟨Eq.refl _, Eq.refl _, Eq.refl _, Eq.refl _, Eq.refl _, Eq.refl _, Eq.refl _⟩

theorem State.SameInputs.trans {s t u : State} (h : s.SameInputs t) (k : t.SameInputs u) : s.SameInputs u :=
  ⟨k.params.trans h.params, k.job.trans h.job, k.lut.trans h.lut, k.img.trans h.img, k.schedule.trans h.schedule,
    k.hostRd.trans h.hostRd, k.imgEpoch.trans h.imgEpoch⟩

/-- Both table spaces read as before. -/
theorem State.SameInputs.sameMemory {s t : State} (h : s.SameInputs t) : SameMemory s t := by
  constructor <;> intro a
  · simp [State.imgCell, h.img, h.imgEpoch]
  · simp [State.lutCell, h.lut]

theorem State.sameInputs_devWrite (b : List Byte) (s : State) : s.SameInputs (s.devWrite b) := by
  constructor <;> simp

theorem State.sameInputs_abort (e : PrintError) (s : State) : s.SameInputs (s.abort e) := by
  constructor <;> simp

theorem State.sameInputs_frameSent (s : State) : s.SameInputs s.frameSent := by
  constructor <;> simp

theorem State.sameInputs_transmit (f : List Byte) (s : State) : s.SameInputs (s.transmit f) := by
  unfold State.transmit
  split
  · exact (sameInputs_devWrite f s).trans (sameInputs_frameSent _)
  · exact (sameInputs_devWrite f s).trans (sameInputs_abort _ _)
  · exact (sameInputs_devWrite f s).trans (sameInputs_abort _ _)

theorem State.sameInputs_requestStatus (f : List Byte) (s : State) : s.SameInputs (s.requestStatus f) := by
  unfold State.requestStatus
  split
  · constructor <;> simp
  · exact (sameInputs_devWrite f s).trans (sameInputs_abort _ _)
  · exact (sameInputs_devWrite f s).trans (sameInputs_abort _ _)

theorem State.sameInputs_receiveReply (b : List Byte) (s : State) : s.SameInputs (s.receiveReply b) := by
  unfold State.receiveReply
  simp only []
  split
  · constructor <;> simp
  · split
    · constructor <;> simp
    · split <;> constructor <;> simp

theorem State.sameInputs_scale (s : State) : s.SameInputs s.scale := by
  unfold State.scale
  split
  · exact sameInputs_abort _ _
  · split
    · exact sameInputs_abort _ _
    · constructor <;> rfl

theorem State.sameInputs_pack (s : State) : s.SameInputs s.pack := by
  unfold State.pack
  split
  · exact sameInputs_abort _ _
  · constructor <;> rfl

theorem State.sameInputs_readStatus (s : State) : s.SameInputs s.readStatus := by
  have h : s.SameInputs ((s.startParser).devRead s.params.wire.statusLen) := by constructor <;> simp
  unfold State.readStatus
  simp only []
  split
  · exact h.trans (sameInputs_receiveReply _ _)
  · exact h.trans (sameInputs_abort _ _)
  · exact h.trans (sameInputs_abort _ _)

/-- No instruction writes a host-written register, a table space, or what the environment will do. -/
theorem exec_sameInputs {i : Instr} {s t : State} (h : exec i s = .next t) : s.SameInputs t := by
  cases i with
  | scale => cases h; exact State.sameInputs_scale s
  | gamma => cases h; constructor <;> rfl
  | dither => cases h; constructor <;> rfl
  | pack => cases h; exact State.sameInputs_pack s
  | encode => cases h; constructor <;> rfl
  | tx =>
    simp only [exec, execTx] at h
    split at h
    · cases h; exact State.sameInputs_transmit _ _
    · cases h
  | statreqOp => cases h; exact State.sameInputs_requestStatus _ _
  | statusOp => cases h; exact State.sameInputs_readStatus s
  | start => cases h; dsimp only; split <;> (constructor <;> rfl)
  | cancel => cases h; dsimp only; split <;> (constructor <;> rfl)
  | clrBusy => cases h; constructor <;> rfl
  | init => cases h; exact State.sameInputs_transmit _ _
  | media id n => cases h; exact State.sameInputs_transmit _ _
  | raster l => cases h; exact State.sameInputs_transmit _ _
  | print => cases h; exact State.sameInputs_transmit _ _
  | statreq => cases h; exact State.sameInputs_requestStatus _ _
  | status r =>
    cases h
    have h : s.SameInputs ((s.startParser).devRead s.params.wire.statusLen) := by constructor <;> simp
    exact h.trans (State.sameInputs_receiveReply _ _)

/-! ## The step -/

/-- What a core step can do: nothing when not busy; take a pending cancellation; else run the operation of the control
position (46_job_fsm.md R217). -/
theorem coreStep_cases {s t : State} (h : coreStep s = .next t) :
    (s.busy = false ∧ t = s)
    ∨ (s.busy = true ∧ s.ctl.cancelPend = true
        ∧ t = State.abort .cancelled { s with ctl := { s.ctl with cancelPend := false } })
    ∨ (s.busy = true ∧ s.ctl.cancelPend = false
        ∧ ∃ i, decodePosition s.position = .ok i ∧ exec i s = .next t) := by
  unfold coreStep at h
  split at h
  · rename_i hb
    cases h
    exact .inl ⟨hb, rfl⟩
  · rename_i hb
    rw [Bool.not_eq_false] at hb
    split at h
    · rename_i hc
      cases h
      exact .inr (.inl ⟨hb, hc, rfl⟩)
    · rename_i hc
      rw [Bool.not_eq_true] at hc
      refine .inr (.inr ⟨hb, hc, ?_⟩)
      rw [decodePosition_position] at h ⊢
      unfold State.busy at hb
      cases hj : s.ctl.jobState <;> simp only [hj, JobState.busy, Bool.false_eq_true] at hb h ⊢ <;> exact ⟨_, rfl, h⟩

/-- A write to `CTRL` performs its commands in the order `CLR_BUSY`, `CANCEL`, `START`, and always ends in a next state
(46_job_fsm.md R211). -/
theorem execAll_decodeCtrl (v : Word) (s : State) : ∃ t, execAll (decodeCtrl v) s = .next t ∧ s.SameInputs t := by
  have key : ∀ (is : List Instr) (s : State), (∀ i ∈ is, i = .clrBusy ∨ i = .cancel ∨ i = .start) →
      ∃ t, execAll is s = .next t ∧ s.SameInputs t := by
    intro is
    induction is with
    | nil => exact fun s _ => ⟨s, rfl, .rfl⟩
    | cons i is ih =>
      intro s hs
      have hi : ∃ u, exec i s = .next u := by
        rcases hs i List.mem_cons_self with rfl | rfl | rfl <;> exact ⟨_, rfl⟩
      obtain ⟨u, hu⟩ := hi
      obtain ⟨t, ht, hst⟩ := ih u fun j hj => hs j (List.mem_cons_of_mem _ hj)
      exact ⟨t, by rw [execAll, hu]; exact ht, (exec_sameInputs hu).trans hst⟩
  refine key _ s fun i hi => ?_
  simp only [decodeCtrl, List.mem_append] at hi
  rcases hi with (hi | hi) | hi <;> split at hi <;> simp_all

/-- Every host access, every command and a hardware reset lead on from every state (70_reset_and_hazards.md R275). -/
theorem perform_of_ne_core {e : Event} (h : e ≠ .core) (s : State) : ∃ t, perform e s = .next t := by
  cases e with
  | core => exact absurd rfl h
  | writeReg number v =>
    by_cases hn : number = 0
    · obtain ⟨t, ht, _⟩ := execAll_decodeCtrl v s
      exact ⟨t, by simp [perform, hn, ht]⟩
    · exact ⟨s.writeRegister number v, by simp [perform, hn]⟩
  | _ => exact ⟨_, rfl⟩

/-! ## A call of print -/

/-- What the turn of a call does: its access, and the phase that the state it is made in leads to (30_encoding.md
R101). -/
theorem printTurn_call {c : PrintCall} {s t : State} {e : Event} (ha : c.access s = some e)
    (ht : perform e s = .next t) : printTurn .call c s = .next ({ c with phase := c.advance s }, t) := by
  simp [printTurn, ha, ht]

/-- A call that waits reads `STATUS`, and begins its writes once the core is not busy (30_encoding.md R101). -/
theorem printTurn_wait {c : PrintCall} {s : State} (hc : c.phase = .wait) (hb : c.takesBusy s = false) :
    printTurn .call c s = .next
      ({ c with phase := if s.busy then .wait else .load (printWrites c.args) },
        s.hostReads (s.readRegister 0x01)) := by
  simp [printTurn, PrintCall.access, PrintCall.advance, hc, hb, perform]

/-- The turn of another event leaves the call where it stands. -/
theorem printTurn_other {c : PrintCall} {s t : State} {e : Event} (ht : perform e s = .next t) :
    printTurn (.other e) c s = .next (c, t) := by
  simp [printTurn, ht]

/-- What a step can do: a core step, the commands of a write to `CTRL`, one host access, or a hardware reset
(46_job_fsm.md R219). -/
theorem step_cases {s t : State} (h : step s = .next t) :
    (s.nextEvent = .core ∧ coreStep s.popEvent = .next t)
    ∨ (∃ v, s.nextEvent = .writeReg 0 v ∧ execAll (decodeCtrl v) s.popEvent = .next t)
    ∨ (∃ n v, n ≠ 0 ∧ s.nextEvent = .writeReg n v ∧ t = s.popEvent.writeRegister n v)
    ∨ ((∃ v, t = s.popEvent.hostReads v) ∧ s.nextEvent ≠ .core ∧ s.nextEvent ≠ .hardwareReset)
    ∨ ((∃ i, t = s.popEvent.hostReadsAbsent i) ∧ s.nextEvent ≠ .core ∧ s.nextEvent ≠ .hardwareReset)
    ∨ (∃ i v, s.nextEvent = .writeLut i v ∧ t = s.popEvent.writeLut i v)
    ∨ (∃ a v, s.nextEvent = .writeImg a v ∧ t = s.popEvent.writeImg a v)
    ∨ (s.nextEvent = .hardwareReset ∧ t = s.popEvent.hardwareReset) := by
  unfold step stepNext at h
  cases he : s.nextEvent <;> simp only [he, perform] at h
  case core => simp [h]
  case writeReg n v =>
    by_cases hn : n = 0
    · subst hn
      exact .inr (.inl ⟨v, rfl, by simpa using h⟩)
    · simp only [hn, if_false, Host.Outcome.next.injEq] at h
      exact .inr (.inr (.inl ⟨n, v, hn, rfl, h.symm⟩))
  case readReg n => cases h; exact .inr (.inr (.inr (.inl ⟨⟨_, rfl⟩, by simp, by simp⟩)))
  case readLut n => cases h; exact .inr (.inr (.inr (.inl ⟨⟨_, rfl⟩, by simp, by simp⟩)))
  case writeLut i v => simp_all
  case writeImg a v => simp_all
  case readImg a =>
    cases h
    split
    · exact .inr (.inr (.inr (.inl ⟨⟨_, rfl⟩, by simp, by simp⟩)))
    · exact .inr (.inr (.inr (.inr (.inl ⟨⟨_, rfl⟩, by simp, by simp⟩))))
  case readStRaw a =>
    cases h
    split
    · exact .inr (.inr (.inr (.inl ⟨⟨_, rfl⟩, by simp, by simp⟩)))
    · exact .inr (.inr (.inr (.inr (.inl ⟨⟨_, rfl⟩, by simp, by simp⟩))))
  case hardwareReset => simp_all

/-! ## The link operations, by LINK's answer -/

/-- What sending a frame can lead to (44_protocol_encoder.md R177). -/
theorem State.transmit_cases (f : List Byte) (s : State) :
    (s.nextWrite = .ok ∧ s.transmit f = (s.devWrite f).frameSent)
    ∨ (∃ code n, s.nextWrite = .ioError code n ∧ s.transmit f = (s.devWrite f).abort (.ioError code))
    ∨ (∃ n, s.nextWrite = .timeout n ∧ s.transmit f = (s.devWrite f).abort .deviceTimeout) := by
  unfold State.transmit
  cases h : s.nextWrite <;> simp

/-- What the StatusRequest can lead to (44_protocol_encoder.md R180). -/
theorem State.requestStatus_cases (f : List Byte) (s : State) :
    (s.nextWrite = .ok ∧ s.requestStatus f =
      { s.devWrite f with ctl := { s.ctl with awSub := true, jobState := .awaitingStatus } })
    ∨ (∃ code n, s.nextWrite = .ioError code n ∧ s.requestStatus f = (s.devWrite f).abort (.ioError code))
    ∨ (∃ n, s.nextWrite = .timeout n ∧ s.requestStatus f = (s.devWrite f).abort .deviceTimeout) := by
  unfold State.requestStatus
  cases h : s.nextWrite <;> simp

/-- What the status read can lead to (45_protocol_decoder.md R190). -/
theorem State.readStatus_cases (s : State) :
    let n := s.params.wire.statusLen
    let r := s.startParser.devRead n
    (∃ b, s.nextRead n = .ok b ∧ b.length ≤ n ∧ s.readStatus = r.receiveReply b)
    ∨ (∃ code, s.nextRead n = .ioError code ∧ s.readStatus = r.abort (.ioError code))
    ∨ (s.nextRead n = .timeout ∧ s.readStatus = r.abort .deviceTimeout) := by
  intro n r
  have e : s.readStatus = (match s.nextRead n with
    | .ok burst => r.receiveReply burst
    | .ioError code => r.abort (.ioError code)
    | .timeout => r.abort .deviceTimeout) := rfl
  cases h : s.nextRead n with
  | ok b => exact .inl ⟨b, rfl, State.nextRead_length h, by rw [e, h]⟩
  | ioError code => exact .inr (.inl ⟨code, rfl, by rw [e, h]⟩)
  | timeout => exact .inr (.inr ⟨rfl, by rw [e, h]⟩)

/-! ## Bounds -/

/-- The bounds of 00_scope.md R8 on `CFG`. -/
theorem paramsCfg_bounds (p : Params) :
    1 ≤ p.cfg.width ∧ p.cfg.width ≤ 65535 ∧ 1 ≤ p.cfg.head ∧ p.cfg.head ≤ 65535
      ∧ 1 ≤ p.cfg.maxLines ∧ p.cfg.maxLines ≤ 65535 := by
  have := p.cfg_ok
  simp only [Cfg.check, Bool.and_eq_true, decide_eq_true_eq] at this
  omega

/-- The rendered image has at least one row and at most `MAX_LINES` (40_scaler.md R120). -/
theorem chooseGeometry_height {c : Cfg} {fit : FitMode} {w h : Nat} {g : Geometry} (hc : 1 ≤ c.maxLines)
    (hg : chooseGeometry c fit w h = .ok g) : 1 ≤ g.height c ∧ g.height c ≤ c.maxLines := by
  unfold chooseGeometry at hg
  simp only [] at hg
  split at hg
  · split at hg <;> cases hg <;> simp [Geometry.height, hc]
  · cases hg
    simp only [Geometry.height]
    omega

/-- Every error records one of the codes of 60_exceptions.md R241. -/
theorem PrintError.code_mem (e : PrintError) : e.code ∈ errorCodes := by
  cases e <;> simp [PrintError.code, errorCodes]

end Sys2Proof.Machine
end

