-- ==== Sys2Proof/Laws/PerInstr.lean ====
section
/-! SUPPORT. The family of statements made per instruction: the length of its encoding (30_encoding.md R88, R99). -/

namespace Sys2Proof.Laws

open Sys2Proof.Machine

/-- Bytes an encoding takes: a control position is held in one, a register value in four. -/
def encodedBytes : Encoding → Nat
  | .position _ => 1
  | .ctrl _ => 4
  | .frame bytes => bytes.length
  | .reply bytes => bytes.length

/-- The length the spec gives each encoding: `RASTER` is length-prefixed, every other frame and the reply are
fixed-length (30_encoding.md R99). -/
def specifiedBytes (p : Params) : Instr → Nat
  | .scale => 1
  | .gamma => 1
  | .dither => 1
  | .pack => 1
  | .encode => 1
  | .tx => 1
  | .statreqOp => 1
  | .statusOp => 1
  | .start => 4
  | .cancel => 4
  | .clrBusy => 4
  | .init => p.wire.initBytes.length
  | .media _ _ => p.wire.mediaTag.length + 1 + p.wire.lenWidth
  | .raster _ => p.wire.rasterTag.length + p.wire.rlenWidth + p.cfg.bytes
  | .print => p.wire.printBytes.length
  | .statreq => p.wire.statreqBytes.length
  | .status _ => p.wire.statusLen

/-- A well-formed instruction's encoding has the specified length. -/
def EncodedLength.Statement (i : Instr) : Prop :=
  ∀ p : Params, i.wellFormed p = true → encodedBytes (encode p.wire i) = specifiedBytes p i

theorem EncodedLength.scale : EncodedLength.Statement .scale := fun _ _ => rfl
theorem EncodedLength.gamma : EncodedLength.Statement .gamma := fun _ _ => rfl
theorem EncodedLength.dither : EncodedLength.Statement .dither := fun _ _ => rfl
theorem EncodedLength.pack : EncodedLength.Statement .pack := fun _ _ => rfl
theorem EncodedLength.encode : EncodedLength.Statement .encode := fun _ _ => rfl
theorem EncodedLength.tx : EncodedLength.Statement .tx := fun _ _ => rfl
theorem EncodedLength.statreqOp : EncodedLength.Statement .statreqOp := fun _ _ => rfl
theorem EncodedLength.statusOp : EncodedLength.Statement .statusOp := fun _ _ => rfl
theorem EncodedLength.start : EncodedLength.Statement .start := fun _ _ => rfl
theorem EncodedLength.cancel : EncodedLength.Statement .cancel := fun _ _ => rfl
theorem EncodedLength.clrBusy : EncodedLength.Statement .clrBusy := fun _ _ => rfl
theorem EncodedLength.init : EncodedLength.Statement .init := fun _ _ => rfl

theorem EncodedLength.media (id : Byte) (length : Nat) : EncodedLength.Statement (.media id length) := fun p _ => by
  simp only [Sys2Proof.encode, frameMedia, encodedBytes, specifiedBytes, List.length_append, List.length_cons,
    fieldBytes_length]
  omega

theorem EncodedLength.raster (line : List Byte) : EncodedLength.Statement (.raster line) := fun p h => by
  have hl : line.length = p.cfg.bytes := of_decide_eq_true h
  simp only [Sys2Proof.encode, frameRaster, encodedBytes, specifiedBytes, List.length_append, fieldBytes_length, hl]

theorem EncodedLength.print : EncodedLength.Statement .print := fun _ _ => rfl
theorem EncodedLength.statreq : EncodedLength.Statement .statreq := fun _ _ => rfl

theorem EncodedLength.status (reply : List Byte) : EncodedLength.Statement (.status reply) := fun p h => by
  simp only [Instr.wellFormed, Bool.and_eq_true, decide_eq_true_eq] at h
  simp only [Sys2Proof.encode, encodedBytes, specifiedBytes, h.1]

end Sys2Proof.Laws
end

