-- ==== Sys2Proof/Tests/Slice0.lean ====
section
/-! SUPPORT. Tests on small states, the decoding of words written out from the spec's encodings, and for every statement
with hypotheses a state and operands that meet them. Expected values come from 95_test_vectors.md (the id stands in the
comment) or from the rule named. -/

namespace Sys2Proof.Tests

open Sys2Proof.Machine

/-! ## Small states -/

/-- Right after reset, with `CFG_SMALL`. -/
def small : State := State.resetWith Params.small

/-- `small` at a control position. -/
def placed (j : JobState) (aw : Bool) : State :=
  { small with ctl := { small.ctl with jobState := j, awSub := aw, devOwn := j.busy } }

/-- A state whose next event is `e`. -/
def upon (e : Event) (s : State) : State := { s with env := { s.env with schedule := [e] } }

/-- A state with the link's next answers. -/
def linked (ws : List WriteAnswer) (rs : List ReadAnswer) (s : State) : State :=
  { s with env := { s.env with writeAnswers := ws, readAnswers := rs } }

/-- `small` in `Scaling` with a grayscale image. -/
def imaged (w h : BitVec 16) (fit : FitMode) (samples : List Byte) : State :=
  let s := placed .scaling false
  { s with
    job := { s.job with imgWidth := w, imgHeight := h, fitMode := fit }
    img := (List.range samples.length).map fun i => (i, samples.getD i 0) }

/-- `small` at a stage, with the buffers given and `OUT_HEIGHT` = `N_LINES` = `n`. -/
def staged (j : JobState) (n : BitVec 16) (buf : Buffers) : State :=
  let s := placed j false
  { s with buf := buf, res := { s.res with outHeight := n, nLines := n } }

/-- A queue of two frames at its start. -/
def queued : State := staged .transferring 1 { Buffers.reset with txq := [[0x01, 0xFE], [0x04, 0xFB]] }

/-- The state an outcome leads to. -/
def after (o : Host.Outcome State Fault Refusal) : Option State :=
  match o with
  | .next t => some t
  | .fault _ => none
  | .refused _ => none

/-- W > HEAD (V-P6), and a reset frame after an `IoError`. -/
def wideParams : Params :=
  ⟨{ width := 24, head := 16, maxLines := 4, resetOnIoError := true }, kernelRef, wireRef, by decide, by decide,
    by decide⟩

def goodReply : List Byte := [0xA5, 0x3E, 0, 0, 0, 0, 0, 0]
def coverOpenReply : List Byte := [0xA5, 0x3E, 0, 2, 0, 0, 0, 0]
def badMagicReply : List Byte := [0x5A, 0x3E, 0, 0, 0, 0, 0, 0]

/-- A call of `print` for a 2×1 image, at a phase. -/
def calling (blocks : Bool) (phase : PrintPhase) : PrintCall :=
  { args := { width := 2, height := 1, rgb := false, samples := [0, 255], table := [0, 1], bias := none, fitMode := .pad
              align := .centered, mediaId := 0x0A, timeout := 7 }
    blocks := blocks, phase := phase }

/-- Where a run of turns leaves the call. -/
def phaseAfter (o : Host.Outcome (PrintCall × State) Fault Refusal) : Option PrintPhase :=
  match o with
  | .next r => some r.1.phase
  | .fault _ => none
  | .refused _ => none

/-! ## WellFormed: each check refuses an ill-formed term -/

theorem test_wellFormed_media_refused : Instr.wellFormed Params.small (.media 1 65536) = false := by decide
theorem test_wellFormed_media : Instr.wellFormed Params.small (.media 1 65535) = true := by decide
theorem test_wellFormed_raster_refused : Instr.wellFormed Params.small (.raster [0xF0]) = false := by decide
theorem test_wellFormed_raster : Instr.wellFormed Params.small (.raster [0, 0xF0]) = true := by decide
theorem test_wellFormed_status_length_refused :
    Instr.wellFormed Params.small (.status [0xA5, 0x3E, 0]) = false := by decide
theorem test_wellFormed_status_check_refused : Instr.wellFormed Params.small (.status badMagicReply) = false := by decide
theorem test_wellFormed_status : Instr.wellFormed Params.small (.status goodReply) = true := by decide
theorem test_cfg_width_refused : Cfg.check { cfgSmall with width := 0 } = false := by decide
theorem test_kernel_sum_refused : DiffusionKernel.check { kernelRef with den := 15 } = false := by decide
theorem test_kernel_visited_refused : DiffusionKernel.check { den := 1, taps := [⟨-1, 0, 1⟩] } = false := by decide
theorem test_wire_offset_refused : Wire.check cfgSmall { wireRef with offPhase := 3 } = false := by decide
theorem test_wire_field_refused : Wire.check { cfgSmall with maxLines := 256 } { wireRef with lenWidth := 1 } = false := by
  decide

/-! ## Decode: one word per constructor, from 30_encoding.md R88 to R92, R96, R97 -/

theorem test_decode_scale : decode wireRef (.position 0b00010#5) = .ok .scale := by decide
theorem test_decode_scale_sub : decode wireRef (.position 0b00011#5) = .ok .scale := by decide
theorem test_decode_gamma : decode wireRef (.position 0b00100#5) = .ok .gamma := by decide
theorem test_decode_dither : decode wireRef (.position 0b00110#5) = .ok .dither := by decide
theorem test_decode_pack : decode wireRef (.position 0b01000#5) = .ok .pack := by decide
theorem test_decode_encode : decode wireRef (.position 0b01010#5) = .ok .encode := by decide
theorem test_decode_tx : decode wireRef (.position 0b01100#5) = .ok .tx := by decide
theorem test_decode_statreqOp : decode wireRef (.position 0b01110#5) = .ok .statreqOp := by decide
theorem test_decode_statusOp : decode wireRef (.position 0b01111#5) = .ok .statusOp := by decide
theorem test_decode_start : decode wireRef (.ctrl 0x00000001#32) = .ok .start := by decide
theorem test_decode_cancel : decode wireRef (.ctrl 0x00000002#32) = .ok .cancel := by decide
theorem test_decode_clrBusy : decode wireRef (.ctrl 0xFFFFFFFC#32) = .ok .clrBusy := by decide
theorem test_decode_init : decode wireRef (.frame [0x01, 0xFE]) = .ok .init := by decide
theorem test_decode_media : decode wireRef (.frame [0x02, 0x01, 0x02, 0xD0]) = .ok (.media 1 720) := by decide
theorem test_decode_raster : decode wireRef (.frame [0x03, 0x00, 0x02, 0x00, 0xF0]) = .ok (.raster [0x00, 0xF0]) := by
  decide
theorem test_decode_print : decode wireRef (.frame [0x04, 0xFB]) = .ok .print := by decide
theorem test_decode_statreq : decode wireRef (.frame [0x05, 0xFA]) = .ok .statreq := by decide
theorem test_decode_status : decode wireRef (.reply goodReply) = .ok (.status goodReply) := by decide

theorem test_decode_idle_refused : decode wireRef (.position 0b00000#5) = .error .noCoreStep := by decide
theorem test_decode_reserved_refused : decode wireRef (.position 0b10100#5) = .error .reservedJobState := by decide
theorem test_decode_ctrl_none_refused : decode wireRef (.ctrl 0xFFFFFFF8#32) = .error .noCommand := by decide
theorem test_decode_ctrl_several_refused : decode wireRef (.ctrl 0x5#32) = .error .severalCommands := by decide
theorem test_decode_frame_refused : decode wireRef (.frame [0x06, 0xF9]) = .error .notAFrame := by decide
theorem test_decode_frame_truncated : decode wireRef (.frame [0x02, 0x01, 0x02]) = .error .truncatedFrame := by decide
theorem test_decode_frame_trailing : decode wireRef (.frame [0x01, 0xFE, 0]) = .error .trailingBytes := by decide
theorem test_decode_reply_length : decode wireRef (.reply [0xA5]) = .error .wrongReplyLength := by decide
theorem test_decode_reply_check : decode wireRef (.reply badMagicReply) = .error .badReplyCheck := by decide
/-- V-E3: the little-endian order of the length field. -/
theorem test_encode_media_little :
    encode { wireRef with lenOrder := .little } (.media 1 720) = .frame [0x02, 0x01, 0xD0, 0x02] := by decide

/-! ## The operations: at most two tests each -/

/-- V-S3, image B under `pad`, its second row. -/
theorem test_scale_pad :
    ((imaged 2 3 .pad [0, 255, 255, 0, 100, 200]).scale.buf.scaled.drop 8).take 8
      = [255, 255, 170, 128, 85, 255, 255, 255] := by decide
/-- V-S3, image A under `reject-oversized`. -/
theorem test_scale_reject :
    (imaged 1 10 .rejectOversized []).scale.errWord = 0x0112 := by decide

/-- V-G1. -/
theorem test_gamma_luma : luma 10 200 30 = 124 ∧ luma 0 255 0 = 150 ∧ luma 0 0 4 = 0 := by decide
/-- V-G5 (d): the table is used as it stands. -/
theorem test_gamma_table :
    (State.gamma { staged .correctingGamma 1 { Buffers.reset with scaled := [0, 64, 128, 255, 0, 0, 0, 0] } with
      lut := [(0, 255), (64, 191), (128, 127), (255, 0)] }).buf.gray.take 4 = [255, 191, 127, 0] := by decide

/-- V-D1. -/
theorem test_dither_rows : (ditherImage kernelRef 128 4 2 [100, 150, 200, 50, 128, 128, 127, 255]).1
    = [true, false, false, true, false, true, true, false] := by decide
/-- V-D3, last line: floor division of a negative error. -/
theorem test_dither_bias : (State.dither { staged .dithering 1 { Buffers.reset with gray := List.replicate 8 0 } with
    job := { small.job with ditherBias := 0x80 } }).buf.mono.take 4 = [false, true, true, true] := by decide

/-- V-P2: a head width that is no multiple of 8. -/
theorem test_pack_line :
    packLine 2 [true, false, true, true, false, false, true, false, true, true] 2 = [0x2C, 0xB0] := by decide
/-- V-P1, centred. -/
theorem test_pack_centered : (State.pack { staged .packing 1 { Buffers.reset with
      mono := [false, true, false, false, true, true, false, false] } with
    job := { small.job with align := .centered } }).buf.raster = [0x04, 0xC0] := by decide

/-- V-E2, one line. -/
theorem test_encode_queue :
    (State.encodeFrames { staged .encoding 1 { Buffers.reset with raster := [0x04, 0xC0] } with
      job := { small.job with mediaId := 1 } }).buf.txq
      = [[0x01, 0xFE], [0x02, 0x01, 0x00, 0x01], [0x03, 0x00, 0x02, 0x04, 0xC0], [0x04, 0xFB]] := by decide

/-- V-E4: the first frame accepted. -/
theorem test_tx_ok : (after (exec .tx (linked [.ok] [] queued))).map
    (fun t => (t.ctl.frameIdx, t.ctl.jobState, t.env.txLog)) = some (1, .transferring, [0x01, 0xFE]) := by decide
/-- V-X1: a timeout in `TX`, with part of the frame delivered, and the reset frame after it. -/
theorem test_tx_timeout : (after (exec .tx (linked [.timeout 1, .ok] [] queued))).map
    (fun t => (t.errWord, t.res.errInfo, t.env.txLog)) = some (0x0622, 0, [0x01, 0x01, 0xFE]) := by decide

/-- V-X1: an `IoError` in `STATREQ`. -/
theorem test_statreqOp_ioError :
    (after (exec .statreqOp (linked [.ioError 5 0] [] (placed .awaitingStatus false)))).map
      (fun t => (t.errWord, t.res.errInfo, t.env.txLog)) = some (0x0721, 5, []) := by decide

/-- V-R2: an unknown error bit. -/
theorem test_statusOp_unknown_bit :
    (after (exec .statusOp (linked [] [.ok [0xA5, 0x3E, 0, 0x12, 0, 0, 0, 0]] (placed .awaitingStatus true)))).map
      (fun t => (t.errWord, t.res.errInfo, t.stFrameWord)) = some (0x0741, 0x12, 0x0000483E) := by decide
/-- V-R2: an unknown media type and padding are no error. -/
theorem test_statusOp_done :
    (after (exec .statusOp (linked [] [.ok [0xA5, 0x0C, 7, 0, 2, 0xAA, 0, 0]] (placed .awaitingStatus true)))).map
      (fun t => (t.ctl.jobState, t.stFrameWord, t.stRawCell 5)) = some (.done, 0x0002020C, 0xAA) := by decide

/-- V-J1. -/
theorem test_start_idle : (after (exec .start small)).map State.statusWord = some 0x11 := by decide
theorem test_start_busy : (after (exec .start (placed .dithering false))).map State.statusWord = some 0x53 := by decide
theorem test_cancel_busy : (after (exec .cancel (placed .dithering false))).map State.statusWord = some 0x33 := by decide
theorem test_cancel_failed : (after (exec .cancel (placed .failed false))).map State.statusWord = some 0x09 := by decide
theorem test_clrBusy : (after (exec .clrBusy { small with ctl := { small.ctl with busyReject := true } })).map
    State.statusWord = some 0 := by decide
/-- V-J1, `CTRL` value 3 while idle and 7 while busy. -/
theorem test_ctrl_cancel_first : (after (step (upon (.writeReg 0 3) small))).map State.statusWord = some 0x11 := by decide
theorem test_ctrl_all_busy :
    (after (step (upon (.writeReg 0 7) (placed .dithering false)))).map State.statusWord = some 0x73 := by decide

/-- V-E1: the command frames as instructions, on LINK. -/
theorem test_init : (after (exec .init (linked [.ok] [] queued))).map (fun t => t.env.txLog) = some [0x01, 0xFE] := by
  decide
theorem test_media : (after (exec (.media 0xFF 65535) (linked [.ok] [] queued))).map (fun t => t.env.txLog)
    = some [0x02, 0xFF, 0xFF, 0xFF] := by decide
theorem test_raster : (after (exec (.raster [0x00, 0xF0]) (linked [.ok] [] queued))).map (fun t => t.env.txLog)
    = some [0x03, 0x00, 0x02, 0x00, 0xF0] := by decide
theorem test_print : (after (exec .print (linked [.ok] [] { queued with ctl := { queued.ctl with frameIdx := 1 } }))).map
    (fun t => (t.env.txLog, t.ctl.jobState, t.ctl.frameIdx)) = some ([0x04, 0xFB], .awaitingStatus, 2) := by decide
theorem test_statreq : (after (exec .statreq (linked [.ok] [] (placed .awaitingStatus false)))).map
    (fun t => (t.env.txLog, t.ctl.awSub)) = some ([0x05, 0xFA], true) := by decide
/-- V-R3. -/
theorem test_status_short : (after (exec (.status [0xA5, 0x3E, 0]) (placed .awaitingStatus true))).map
    (fun t => (t.errWord, t.res.stValid, t.ser.rxCnt, t.ser.rxState)) = some (0x0731, false, 3, .short) := by decide

/-- V-J4: `JOB_CFG <- 0xFFFFFFFF` reads back 0x0000FF06. -/
theorem test_register_jobCfg : (after (step (upon (.writeReg 9 0xFFFFFFFF) small))).map (fun t => t.readRegister 9)
    = some 0x0000FF06 := by decide
/-- V-J2: a write while busy is dropped. -/
theorem test_register_locked : (after (step (upon (.writeReg 6 9) (placed .packing false)))).map
    (fun t => t.readRegister 6) = some 0 := by decide
/-- V-Z1. -/
theorem test_reset_registers : (State.reset.readRegister 0x09, State.reset.readRegister 0x0B,
    State.reset.readRegister 0x10, State.reset.readRegister 0x13) = (2, 0xFFFFFFFF, 720, 90) := by decide

/-- R101: the writes of a call, in order, the bias absent. -/
theorem test_print_writes : ((printWrites (calling true .wait).args).take 6, (printWrites (calling true .wait).args).drop 261)
    = ([.writeReg 6 2, .writeReg 7 1, .writeReg 8 0, .writeImg 0 0, .writeImg 1 255, .writeLut 0 0],
       [.writeReg 0x0A 0, .writeReg 0x09 0x0A04, .writeReg 0x0B 7]) := by decide
/-- R101, R250: while the core is busy one call waits, another is rejected with `PrinterBusy`. -/
theorem test_print_busy :
    phaseAfter (printRun [.call, .call] (calling true .wait) (placed .packing false)) = some .wait
    ∧ phaseAfter (printRun [.call] (calling false .wait) (placed .packing false)) = some (.returned .printerBusy)
    ∧ (calling false .wait).access (placed .packing false) = some (.writeReg 0 1) := by decide
/-- R101: a running job that ends before the call's turn is no longer busy then, and the call begins its writes. -/
theorem test_print_after_failure :
    (phaseAfter (printRun [.other .core, .call] (calling false .wait) (imaged 0 1 .pad []))).bind
      (fun p => (calling false p).access small) = some (.writeReg 6 2) := by decide
/-- R101 on an image without columns: `START`, the step that fails, the poll, and the two reads of the record. -/
theorem test_print_failed :
    phaseAfter (printRun [.call, .call, .other .core, .call, .call, .call] (calling true (.load [])) small)
      = some (.returned (.failed 0x11 1 0)) := by decide
/-- R275: a read of an `IMG` cell that does not exist is a step like any other, and a write to one is dropped. -/
theorem test_absent_cell : (after (step (upon (.readImg imgSpace) small))).map (fun t => t.env.absentReads) = some 1
    ∧ (after (step (upon (.writeImg imgSpace 1) small))).map (fun t => t.img) = some [] := by decide

/-! ## Witnesses: states and operands that meet the hypotheses of the statements -/

theorem test_witness_ResetRegisterValues : Params.ref.wire.statusLen < 65536 := by decide

theorem test_witness_HardwareResetFromAnyState :
    (upon .hardwareReset (placed .transferring false)).nextEvent = .hardwareReset := by decide

theorem test_witness_DecodeEncodeAgree : Params.small.wire.distinctLeads = true
    ∧ ∀ i ∈ [Instr.media 0xFF 65535, .raster [0xFF, 0xFF], .status goodReply, .tx, .clrBusy, .statreq],
        i.wellFormed Params.small = true := by decide

theorem test_witness_FrameHasOneEncoding : decode wireRef (.frame [0x02, 0xFF, 0xFF, 0xFF]) = .ok (.media 0xFF 65535)
    ∧ decode wireRef (.frame [0x03, 0x00, 0x00]) = .ok (.raster []) := by decide

theorem test_witness_PlacedWordRuns : State.reset.params.wire = wireRef
    ∧ decodeTableWord 8 0b01100 = some .tx ∧ decodeTableWord 32 0x2 = some .cancel
    ∧ decodeTableWord 16 0x05FA = some .statreq ∧ decodeTableWord 64 0xA53E000000000000 = some (.status goodReply) := by
  decide

theorem test_witness_StepRunsStageOperation :
    ∀ p ∈ [(JobState.scaling, false), (.correctingGamma, false), (.dithering, false), (.packing, false),
        (.encoding, false), (.transferring, false), (.awaitingStatus, false), (.awaitingStatus, true)],
      (placed p.1 p.2).nextEvent = .core ∧ (placed p.1 p.2).busy = true ∧ (placed p.1 p.2).ctl.cancelPend = false := by
  decide

theorem test_witness_StepRunsHostCommand : ∀ v ∈ [(0xFFFFFFF9#32, Instr.start), (0x2#32, .cancel), (0x4#32, .clrBusy)],
    (upon (.writeReg 0 v.1) small).nextEvent = .writeReg 0 v.1 ∧ decode small.params.wire (.ctrl v.1) = .ok v.2 := by
  decide

theorem test_witness_CtrlWriteOrder :
    (upon (.writeReg 0 7) (placed .awaitingStatus true)).busy = true
    ∧ (upon (.writeReg 0 0xFFFFFFFE) (placed .done false)).busy = false ∧ (0xFFFFFFFE#32).getLsbD 0 = false
    ∧ (upon (.writeReg 0 3) (placed .failed false)).busy = false ∧ (3#32).getLsbD 0 = true
    ∧ ∀ v, (upon (.writeReg 0 v) small).nextEvent = .writeReg 0 v := ⟨by decide, by decide, by decide, by decide,
      by decide, fun _ => rfl⟩

theorem test_witness_StepRunsLinkFrames :
    queued.nextEvent = .core ∧ queued.ctl.cancelPend = false ∧ queued.ctl.jobState = .transferring
    ∧ queued.buf.txq[queued.ctl.frameIdx.toNat]? = some [0x01, 0xFE]
    ∧ decode queued.params.wire (.frame [0x01, 0xFE]) = .ok .init
    ∧ (placed .awaitingStatus false).ctl.awSub = false ∧ (placed .awaitingStatus true).ctl.awSub = true
    ∧ (linked [] [.ok goodReply] (placed .awaitingStatus true)).nextRead 8 = .ok goodReply
    ∧ decode small.params.wire (.reply goodReply) = .ok (.status goodReply) := by decide

theorem test_witness_StartAccepted : ∀ j ∈ [JobState.idle, .done, .failed], (placed j false).busy = false := by decide

theorem test_witness_StartRejectedWhileBusy :
    (∀ j ∈ [JobState.scaling, .awaitingStatus], (placed j false).busy = true)
    ∧ (calling true (.load [])).phase = .load []
    ∧ (∀ b ∈ [true, false], (calling b .wait).phase = .wait ∧ (calling b .wait).blocks = b) := by decide

theorem test_witness_BusyLockDropsWrites : (placed .scaling false).busy = true
    ∧ (upon (.writeReg 1 0) (placed .scaling false)).nextEvent = .writeReg 1 0
    ∧ (upon (.writeLut 255 0) (placed .scaling false)).nextEvent = .writeLut 255 0
    ∧ (upon (.writeImg imgSpace 0) (placed .scaling false)).nextEvent = .writeImg imgSpace 0 := by decide

theorem test_witness_JobInputsConstantWhileBusy :
    (upon (.writeReg 6 9) (placed .packing false)).busy = true
    ∧ (upon (.writeReg 6 9) (placed .packing false)).nextEvent ≠ .hardwareReset
    ∧ (after (step (upon (.writeReg 6 9) (placed .packing false)))).isSome = true := by decide

theorem test_witness_RegisterWriteReadBack :
    small.busy = false ∧ ∀ n ∈ [0x06, 0x07, 0x08, 0x09, 0x0A, 0x0B],
      (upon (.writeReg n 0xFFFFFFFF) small).nextEvent = .writeReg n 0xFFFFFFFF := by decide

theorem test_witness_TableWriteReadBack : small.busy = false
    ∧ Memory.wf 256 lutDefault [(0, 7), (255, 0)] = true ∧ Memory.wf imgSpace imgDefault [(imgSpace - 1, 7)] = true
    ∧ MemoryInv { small with lut := [(0, 7), (255, 0)], img := [(imgSpace - 1, 7)] }
    ∧ (∀ a ∈ [imgSpace - 1, imgSpace], (upon (.writeImg a 1) small).nextEvent = .writeImg a 1)
    ∧ (upon (.writeLut 255 1) small).nextEvent = .writeLut 255 1 :=
  ⟨by decide, by decide, by decide, by unfold MemoryInv; decide, by decide, by decide⟩

theorem test_witness_HostReadsChangeNothing :
    (upon (.readReg 0x15) small).nextEvent = .readReg 0x15 ∧ (upon (.readLut 255) small).nextEvent = .readLut 255
    ∧ (upon (.readImg 0) small).nextEvent = .readImg 0 ∧ 0 < imgSpace
    ∧ (upon (.readStRaw 7) small).nextEvent = .readStRaw 7 ∧ 7 < small.params.wire.statusLen
    ∧ (upon (.writeReg 0x0E 1) small).nextEvent = .writeReg 0x0E 1
    ∧ (upon (.readImg imgSpace) small).nextEvent = .readImg imgSpace
    ∧ (upon (.readStRaw 8) small).nextEvent = .readStRaw 8 ∧ small.params.wire.statusLen = 8
    ∧ (calling false .wait).phase = .wait ∧ small.busy = false ∧ (calling true .poll).phase = .poll ∧ (placed .done true).ctl.jobState = .done
    ∧ (placed .failed true).ctl.jobState = .failed ∧ small.ctl.jobState ≠ .done := by decide

theorem test_witness_ScaleRejectsEmptyImage :
    (imaged 0 5 .pad []).ctl.jobState = .scaling ∧ (imaged 0 5 .pad []).job.imgWidth.toNat = 0
    ∧ (imaged 5 0 .pad []).job.imgHeight.toNat = 0 := by decide

theorem test_witness_ScaleRejectsOversized :
    0 < (imaged 1 1 .rejectOversized [7]).job.imgWidth.toNat ∧ 0 < (imaged 1 1 .rejectOversized [7]).job.imgHeight.toNat
    ∧ small.params.cfg.maxLines < (2 * 1 * small.params.cfg.width + 1) / (2 * 1)
    ∧ (imaged 1 1 .rejectOversized [7]).job.fitMode = .rejectOversized := by decide

/-- V-S4: a 2×1 image is just not oversized, a 1×1 image is, under `crop` and `pad` alike. -/
theorem test_witness_ScaleRendersImage :
    (2 * 1 * small.params.cfg.width + 2) / (2 * 2) = small.params.cfg.maxLines
    ∧ 0 < (imaged 2 1 .rejectOversized [0, 255]).job.imgWidth.toNat
    ∧ 0 < (imaged 2 1 .rejectOversized [0, 255]).job.imgHeight.toNat
    ∧ (imaged 1 1 .crop [7]).job.fitMode ≠ .rejectOversized ∧ (imaged 1 1 .pad [7]).job.fitMode ≠ .rejectOversized := by
  decide

theorem test_witness_OverlapsSumToSource : 0 < 3 ∧ 1 < 2 := by decide

theorem test_witness_ResampleKeepsRange : ∀ y x, y < 1 → x < 3 → 7 ≤ (fun _ x => 7 + x) y x ∧ (fun _ x => 7 + x) y x ≤ 9 :=
  fun _ x _ hx => ⟨Nat.le_add_right 7 x, by dsimp only; omega⟩

theorem test_witness_ResampleReplicates : 0 < 2 ∧ 0 < 3 ∧ 5 < 2 * 3 ∧ 2 < 3 * 1 := by decide

theorem test_witness_AspectRatioPreserved : cfgSmall.check = true ∧ computedHeight cfgSmall 40 1 = 0
    ∧ cfgSmall.maxLines < computedHeight cfgSmall 1 10 ∧ padInnerWidth cfgSmall 1 10 = 1
    ∧ cfgSmall.maxLines < computedHeight cfgSmall 2 3 ∧ padInnerWidth cfgSmall 2 3 = 3 := by decide

theorem test_witness_GammaReplacesSamples :
    (staged .correctingGamma 1 { Buffers.reset with scaled := List.replicate 8 7 }).buf.scaled.length
      = 1 * small.params.cfg.width * 1 := by decide

/-- The identity table is the table of exponent 1. -/
theorem test_witness_GammaTableProperties : (0 : ℝ) < 1 ∧ LutIsGamma 1 small := by
  refine ⟨one_pos, one_pos, fun i hi => ?_⟩
  have h : gammaLut 1 i = i := by
    rw [gammaLut, one_div_one, Real.rpow_one, mul_div_cancel₀ _ (by norm_num : (255 : ℝ) ≠ 0)]
    rw [Nat.floor_eq_iff (by positivity)]
    constructor <;> linarith
  rw [h]
  change (BitVec.ofNat 8 i).toNat = i
  rw [BitVec.toNat_ofNat]
  omega

theorem test_witness_DitherDiffusesErrors :
    (staged .dithering 2 { Buffers.reset with gray := List.replicate 16 128 }).buf.gray.length
      = 2 * small.params.cfg.width := by decide

theorem test_witness_DitherKeepsSolidFields : small.job.ditherBias ≠ 0x80#8
    ∧ (staged .dithering 1 { Buffers.reset with gray := List.replicate 8 0 }).buf.gray = List.replicate (1 * 8) 0
    ∧ (staged .dithering 1 { Buffers.reset with gray := List.replicate 8 255 }).buf.gray = List.replicate (1 * 8) 255 := by
  decide

theorem test_witness_PackRejectsWideRows :
    (State.resetWith wideParams).params.cfg.head < (State.resetWith wideParams).params.cfg.width
    ∧ small.params.cfg.width ≤ small.params.cfg.head ∧ (placed .packing false).ctl.jobState = .packing := by decide

theorem test_witness_PackPlacesPixels : small.params.cfg.width ≤ small.params.cfg.head
    ∧ (staged .packing 1 { Buffers.reset with mono := List.replicate 8 true }).buf.mono.length
      = 1 * small.params.cfg.width := by decide

theorem test_witness_PackUnpackRoundTrip : 8 + (List.replicate 8 true).length ≤ 8 * 2 := by decide

theorem test_witness_SerialPackerAgrees : 2 + (List.replicate 10 true).length ≤ 12 := by decide

theorem test_witness_EncodeBuildsTheQueue :
    (staged .encoding 1 { Buffers.reset with raster := [0x04, 0xC0] }).buf.raster.length
      = 1 * small.params.cfg.bytes := by decide

theorem test_witness_FieldsCarryTheirNumbers : 1 < 2 ∧ 65535 < 256 ^ 2 := by decide

theorem test_witness_PacketizerStreamsTheQueue : 2 < ([] : List (List Byte)).length + 3 := by decide

theorem test_witness_FrameAccepted : (linked [.ok] [] queued).nextWrite = .ok
    ∧ (linked [.ok] [] queued).sentFrame .tx = some [0x01, 0xFE]
    ∧ ∀ i ∈ [Instr.init, .media 1 1, .raster [0, 0], .print], ((linked [.ok] [] queued).sentFrame i).isSome = true := by
  decide

theorem test_witness_StatusRequestAccepted : (linked [.ok] [] (placed .awaitingStatus false)).nextWrite = .ok := by decide

theorem test_witness_FailedWriteEndsTheJob : (linked [.ioError 5 1] [] queued).nextWrite = .ioError 5 1
    ∧ (linked [.timeout 2] [] queued).nextWrite = .timeout 2
    ∧ ∀ i ∈ [Instr.tx, .statreqOp, .init, .media 1 1, .raster [0, 0], .print, .statreq],
        (queued.sentFrame i).isSome = true := by decide

theorem test_witness_TxWithoutFrameFaults : small.buf.txq.length ≤ small.ctl.frameIdx.toNat := by decide

theorem test_witness_GoodReplyEndsInDone :
    (linked [] [.ok goodReply] (placed .awaitingStatus true)).receivedReply .statusOp = some goodReply
    ∧ (placed .awaitingStatus true).receivedReply (.status goodReply) = some goodReply
    ∧ goodReply.length = small.params.wire.statusLen ∧ small.params.wire.statusCheck.holds goodReply = true
    ∧ (decodeStatus small.params.wire goodReply).flags = ⟨false, false, false, false, false⟩ := by decide

theorem test_witness_FaultReplyIsReported :
    (linked [] [.ok coverOpenReply] (placed .awaitingStatus true)).receivedReply .statusOp = some coverOpenReply
    ∧ (placed .awaitingStatus true).receivedReply (.status coverOpenReply) = some coverOpenReply
    ∧ coverOpenReply.length = small.params.wire.statusLen ∧ small.params.wire.statusCheck.holds coverOpenReply = true
    ∧ (decodeStatus small.params.wire coverOpenReply).flags.coverOpen = true := by decide

theorem test_witness_MalformedReplyIsReported :
    (placed .awaitingStatus true).receivedReply (.status [0xA5]) = some [0xA5]
    ∧ [0xA5#8].length < small.params.wire.statusLen
    ∧ (placed .awaitingStatus true).receivedReply (.status badMagicReply) = some badMagicReply
    ∧ small.params.wire.statusCheck.holds badMagicReply = false := by decide

theorem test_witness_FailedReadEndsTheJob :
    (linked [] [.ioError 0xB] (placed .awaitingStatus true)).nextRead 8 = .ioError 0xB
    ∧ (linked [] [.timeout] (placed .awaitingStatus true)).nextRead 8 = .timeout
    ∧ small.params.wire.statusLen = 8 ∧ small.params.cfg.resetOnIoError = false
    ∧ wideParams.cfg.resetOnIoError = true := by decide

/-- Cover open and paper jam together, die-cut media 29 mm wide, printing; bit 0 and bit 3 clear. -/
theorem test_witness_SyntheticReplyRoundTrip :
    let reply : List Byte := [0xA5, 29, 1, 6, 1, 0xAA, 0xBB, 0xCC]
    let flags := fun p : FlagPos => p.bit == 1 || p.bit == 2
    reply.length = wireRef.statusLen ∧ wireRef.statusCheck.holds reply = true ∧ replyByte reply wireRef.offWidth = 29
    ∧ (wireRef.typeMap.lookup (replyByte reply wireRef.offType)).getD .unknown = .dieCut
    ∧ (∀ i, i < wireRef.offErr.length → ∀ n, n < 8 →
        (replyByte reply (wireRef.offErr.getD i 0)).getLsbD n = (decide (⟨i, n⟩ ∈ wireRef.errMap) && flags ⟨i, n⟩))
    ∧ wireRef.phaseMap.lookup (replyByte reply wireRef.offPhase) = some .printing := by decide

theorem test_witness_SerialParserAgrees : badMagicReply.length ≤ small.params.wire.statusLen := by decide

theorem test_witness_CancelTakenByTheNextStep : ∀ j ∈ [JobState.encoding, .transferring, .awaitingStatus],
    let s := { placed j false with ctl := { (placed j false).ctl with cancelPend := true } }
    s.nextEvent = .core ∧ s.busy = true ∧ s.ctl.cancelPend = true := by decide

/-- Just after `START` the invariant holds. -/
theorem inv_imaged : Inv (imaged 2 1 .pad [0, 255]) where
  handle := by unfold HandleInv; decide
  memory := by unfold MemoryInv; decide
  record := by unfold RecordInv; decide
  position := by unfold PositionInv; decide
  pipeline := trivial

theorem test_witness_InvariantKeptByEveryStep : Inv (imaged 2 1 .pad [0, 255])
    ∧ (after (step (imaged 2 1 .pad [0, 255]))).map (fun t => t.ctl.jobState) = some .correctingGamma :=
  ⟨inv_imaged, by decide⟩

theorem test_witness_HandleOwnedExactlyWhileBusy : HandleInv (linked [.ok] [] queued)
    ∧ (after (step (linked [.ok] [] queued))).map (fun t => decide (t.env.calls ≠ [])) = some true :=
  ⟨by unfold HandleInv; decide, by decide⟩

/-- One state for each way `JOB_STATE` can change. -/
theorem test_witness_OnlyTabledTransitions :
    (after (step (upon .hardwareReset (placed .done false)))).map (fun t => t.ctl.jobState) = some .idle
    ∧ (after (step (upon (.writeReg 0 1) (placed .done false)))).map (fun t => t.ctl.jobState) = some .scaling
    ∧ (after (step (imaged 0 1 .pad []))).map (fun t => t.ctl.jobState) = some .failed
    ∧ (after (step (imaged 2 1 .pad [0, 255]))).map (fun t => t.ctl.jobState) = some .correctingGamma := by decide

theorem test_witness_CoreStepsAdvance : Inv (imaged 2 1 .pad [0, 255])
    ∧ (imaged 2 1 .pad [0, 255]).nextEvent = .core ∧ (imaged 2 1 .pad [0, 255]).busy = true :=
  ⟨inv_imaged, by decide, by decide⟩

theorem test_witness_StepsWithoutFault : Inv (imaged 2 1 .pad [0, 255])
    ∧ (upon (.readStRaw 8) small).nextEvent ≠ .core := ⟨inv_imaged, by decide⟩

theorem test_witness_LogOnlyGrows : (linked [.ok] [] queued).nextEvent ≠ .hardwareReset
    ∧ (after (step (linked [.ok] [] queued))).isSome = true := by decide

theorem test_witness_QueueIsSentInOrder :
    let s := linked [.ok, .ok] [] queued
    s.ctl.jobState = .transferring ∧ s.ctl.frameIdx = 0 ∧ s.ctl.cancelPend = false ∧ s.env.schedule = []
    ∧ 0 < s.buf.txq.length ∧ s.buf.txq.length < 2 ^ 32
    ∧ s.env.writeAnswers = List.replicate s.buf.txq.length .ok ++ [] := by decide

/-- Listing P1: a 2×1 image with `CFG_SMALL`, just not oversized; and an oversized 1×1 image under `crop` and `pad`. -/
theorem test_witness_SuccessfulJobRuns :
    ∀ p ∈ [(2#16, FitMode.rejectOversized), (1#16, .crop), (1#16, .pad)],
      let s := linked (List.replicate 8 .ok) [.ok goodReply] (imaged p.1 1 p.2 [0, 255])
      let hc := (2 * s.job.imgHeight.toNat * s.params.cfg.width + s.job.imgWidth.toNat) / (2 * s.job.imgWidth.toNat)
      s.ctl.jobState = .scaling ∧ s.ctl.cancelPend = false ∧ s.env.schedule = []
      ∧ 0 < s.job.imgWidth.toNat ∧ 0 < s.job.imgHeight.toNat
      ∧ (hc ≤ s.params.cfg.maxLines ∨ s.job.fitMode ≠ .rejectOversized) ∧ s.params.cfg.width ≤ s.params.cfg.head
      ∧ s.env.writeAnswers = List.replicate
          ((if hc ≤ s.params.cfg.maxLines then max 1 hc else s.params.cfg.maxLines) + 4) .ok ++ []
      ∧ s.env.readAnswers = .ok goodReply :: [] ∧ goodReply.length = s.params.wire.statusLen
      ∧ s.params.wire.statusCheck.holds goodReply = true
      ∧ (decodeStatus s.params.wire goodReply).flags = ⟨false, false, false, false, false⟩ := by decide

end Sys2Proof.Tests
end

section
/-! SUPPORT. The host's accesses: what a write to a register or a table does, busy or not, what a write to an RW register
reads as afterwards, and what the registers and tables read right after reset. -/

namespace Sys2Proof.Machine

/-! ## A write, under the busy lock -/

theorem State.writeRegister_of_busy {s : State} (hb : s.busy = true) (n : Nat) (v : Word) :
    s.writeRegister n v = s := if_pos hb

theorem State.writeRegister_of_not_busy {s : State} (hb : s.busy = false) (n : Nat) (v : Word) :
    s.writeRegister n v = { s with job := s.job.writeRegister n v } := if_neg (by simp [hb])

theorem State.writeLut_of_busy {s : State} (hb : s.busy = true) (i v : Byte) : s.writeLut i v = s := if_pos hb

theorem State.writeLut_of_not_busy {s : State} (hb : s.busy = false) (i v : Byte) :
    s.writeLut i v = { s with lut := s.lut.put lutDefault i.toNat v } := if_neg (by simp [hb])

theorem State.writeImg_of_busy {s : State} (hb : s.busy = true) (a : Nat) (v : Byte) : s.writeImg a v = s :=
  if_pos (.inl hb)

theorem State.writeImg_of_le {s : State} {a : Nat} (ha : imgSpace ≤ a) (v : Byte) : s.writeImg a v = s :=
  if_pos (.inr ha)

theorem State.writeImg_of_not_busy {s : State} (hb : s.busy = false) {a : Nat} (ha : a < imgSpace) (v : Byte) :
    s.writeImg a v = { s with img := s.img.put imgDefault a v } := if_neg (by simp [hb, ha])

/-- An event that the schedule names is performed, once it is taken off. -/
theorem step_of_nextEvent {s : State} {e : Event} (he : s.nextEvent = e) : step s = perform e s.popEvent := by
  rw [step, stepNext, he]

theorem perform_writeReg {n : Nat} (hn : n ≠ 0) (v : Word) (s : State) :
    perform (.writeReg n v) s = .next (s.writeRegister n v) := if_neg hn

/-! ## Writing and reading the RW registers -/

/-- A field at the low end of a register reads as the register masked to the field. -/
theorem setWidth_extractLsb'_zero (v : Word) (k : Nat) :
    (v.extractLsb' 0 k).setWidth 32 = v &&& BitVec.ofNat 32 (2 ^ k - 1) := by
  refine BitVec.eq_of_getLsbD_eq fun i hi => ?_
  simp only [BitVec.getLsbD_setWidth, BitVec.getLsbD_extractLsb', BitVec.getLsbD_and, BitVec.getLsbD_ofNat,
    Nat.testBit_two_pow_sub_one, hi, decide_true, Bool.true_and, Nat.zero_add, Bool.and_comm]

theorem setWidth_ofBool_getLsbD_zero (v : Word) : (BitVec.ofBool (v.getLsbD 0)).setWidth 32 = v &&& 1#32 := by
  ext i hi
  cases i <;> simp

@[simp] theorem code_fitModeOfBits (b : BitVec 2) : (fitModeOfBits b).code = if b = 3 then 2 else b := by
  revert b
  decide

@[simp] theorem bit_alignOfBit (b : Bool) : (alignOfBit b).bit = b := by cases b <;> rfl

section
variable (j : Job) (n : Nat) (v : Word)

@[simp] theorem Job.writeRegister_imgWidth :
    (j.writeRegister n v).imgWidth = if n = 0x06 then v.extractLsb' 0 16 else j.imgWidth := by
  unfold Job.writeRegister
  split <;> simp_all

@[simp] theorem Job.writeRegister_imgHeight :
    (j.writeRegister n v).imgHeight = if n = 0x07 then v.extractLsb' 0 16 else j.imgHeight := by
  unfold Job.writeRegister
  split <;> simp_all

@[simp] theorem Job.writeRegister_rgb :
    (j.writeRegister n v).rgb = if n = 0x08 then v.getLsbD 0 else j.rgb := by
  unfold Job.writeRegister
  split <;> simp_all

@[simp] theorem Job.writeRegister_fitMode :
    (j.writeRegister n v).fitMode = if n = 0x09 then fitModeOfBits (v.extractLsb' 0 2) else j.fitMode := by
  unfold Job.writeRegister
  split <;> simp_all

@[simp] theorem Job.writeRegister_align :
    (j.writeRegister n v).align = if n = 0x09 then alignOfBit (v.getLsbD 2) else j.align := by
  unfold Job.writeRegister
  split <;> simp_all

@[simp] theorem Job.writeRegister_mediaId :
    (j.writeRegister n v).mediaId = if n = 0x09 then v.extractLsb' 8 8 else j.mediaId := by
  unfold Job.writeRegister
  split <;> simp_all

@[simp] theorem Job.writeRegister_ditherBias :
    (j.writeRegister n v).ditherBias = if n = 0x0A then v.extractLsb' 0 8 else j.ditherBias := by
  unfold Job.writeRegister
  split <;> simp_all

@[simp] theorem Job.writeRegister_timeout :
    (j.writeRegister n v).timeout = if n = 0x0B then v else j.timeout := by
  unfold Job.writeRegister
  split <;> simp_all

end

/-- `MEDIA_ID` and `ALIGN` stand in `JOB_CFG` where they stand in the value written, above `FIT_MODE`
(10_state.md R29). -/
theorem append_jobCfg_fields (v : Word) (fit : BitVec 2) :
    0#16 ++ v.extractLsb' 8 8 ++ 0#5 ++ BitVec.ofBool (v.getLsbD 2) ++ fit
      = (v &&& 0xFF04#32) ||| fit.setWidth 32 := by
  refine BitVec.eq_of_getLsbD_eq fun i hi => ?_
  simp only [BitVec.getLsbD_append, BitVec.getLsbD_or, BitVec.getLsbD_and, BitVec.getLsbD_setWidth,
    BitVec.getLsbD_extractLsb', BitVec.getLsbD_ofBool]
  interval_cases i <;> simp

/-- The fields of a write to `JOB_CFG`, read back: the reserved bits as 0, `FIT_MODE` as it is stored
(10_state.md R29). -/
theorem cfgWord_writeRegister (j : Job) (v : Word) : (j.writeRegister 0x09 v).cfgWord =
    (v &&& 0xFF04#32) ||| (if v &&& 3#32 = 3#32 then 2#32 else v &&& 3#32) := by
  have hfit : v &&& 3#32 = (v.extractLsb' 0 2).setWidth 32 := (setWidth_extractLsb'_zero v 2).symm
  have hwiden : ∀ b : BitVec 2, (if b = 3 then 2 else b).setWidth 32
      = if b.setWidth 32 = 3#32 then 2#32 else b.setWidth 32 := by decide
  simp only [Job.cfgWord, Job.writeRegister_fitMode, Job.writeRegister_align, Job.writeRegister_mediaId, if_true,
    code_fitModeOfBits, bit_alignOfBit, append_jobCfg_fields, hwiden, hfit]

/-- A write to a register leaves what every other register reads. -/
theorem readRegister_writeRegister_of_ne {m n : Nat} (h : m ≠ n) (s : State) (v : Word) :
    (s.writeRegister n v).readRegister m = s.readRegister m := by
  cases hb : s.busy
  · rw [State.writeRegister_of_not_busy hb]
    unfold State.readRegister
    split <;> simp [State.statusWord, State.errWord, State.stFrameWord, Job.cfgWord, h.symm]
  · rw [State.writeRegister_of_busy hb]

/-- What a write to an RW register of a core that is not busy reads as (10_state.md R28 to R31). -/
theorem readRegister_writeRegister_same {s : State} {n : Nat} (hb : s.busy = false)
    (hn : n ∈ [0x06, 0x07, 0x08, 0x09, 0x0A, 0x0B]) (v : Word) :
    (s.writeRegister n v).readRegister n =
      (if n = 0x06 ∨ n = 0x07 then v &&& 0xFFFF#32
       else if n = 0x08 then v &&& 1#32
       else if n = 0x09 then (v &&& 0xFF04#32) ||| (if v &&& 3#32 = 3#32 then 2#32 else v &&& 3#32)
       else if n = 0x0A then v &&& 0xFF#32
       else v) := by
  rw [State.writeRegister_of_not_busy hb]
  simp only [List.mem_cons, List.not_mem_nil, or_false] at hn
  obtain rfl | rfl | rfl | rfl | rfl | rfl := hn
  · exact setWidth_extractLsb'_zero v 16
  · exact setWidth_extractLsb'_zero v 16
  · exact setWidth_ofBool_getLsbD_zero v
  · exact cfgWord_writeRegister s.job v
  · exact setWidth_extractLsb'_zero v 8
  · rfl

/-! ## Right after reset -/

theorem statusWord_resetWith (p : Params) : (State.resetWith p).statusWord = 0 := by
  simp only [State.statusWord, State.resetWith, Control.reset, Result.reset, JobState.code]
  decide

theorem errWord_resetWith (p : Params) : (State.resetWith p).errWord = 0 := by
  simp only [State.errWord, State.resetWith, Result.reset]
  decide

theorem cfgWord_reset : Job.reset.cfgWord = 2 := by decide

/-- A parameter within the bound of a 16-bit register reads as itself (10_state.md R33). -/
theorem toNat_setWidth_ofNat {n : Nat} (h : n < 65536) : ((BitVec.ofNat 16 n).setWidth 32).toNat = n := by
  simp only [BitVec.toNat_setWidth, BitVec.toNat_ofNat]
  omega

/-- `LUT` reads as the identity while it lists nothing (10_state.md R35). -/
theorem toNat_lutCell_of_nil {s : State} (h : s.lut = []) {i : Nat} (hi : i < 256) : (s.lutCell i).toNat = i := by
  simp [State.lutCell, h, Memory.get?, lutDefault, Nat.mod_eq_of_lt hi]

/-- `ST_RAW` reads 0 while `ST_VALID` is 0 (10_state.md R37). -/
theorem stRawCell_of_not_valid {s : State} (h : s.res.stValid = false) (i : Nat) : s.stRawCell i = 0 := by
  simp [State.stRawCell, h]

end Sys2Proof.Machine
end

section
/-! PROOFS. The statements about reset, the busy lock and the RW registers. -/

namespace Sys2Proof.Machine

/-- Settles O1: the registers made of fields by the lemmas above, the parameters by their bounds (00_scope.md R8). -/
theorem resetRegisterValues : Obligations.ResetRegisterValues := by
  intro p s
  obtain ⟨-, hwidth, -, hhead, -, hlines⟩ := paramsCfg_bounds p
  have hbytes : p.cfg.bytes < 65536 := by
    unfold Cfg.bytes
    omega
  refine ⟨?_, cfgWord_reset, rfl, toNat_setWidth_ofNat (n := p.cfg.width) (by omega),
    toNat_setWidth_ofNat (n := p.cfg.head) (by omega), toNat_setWidth_ofNat (n := p.cfg.maxLines) (by omega),
    toNat_setWidth_ofNat hbytes, toNat_setWidth_ofNat, rfl, fun i hi => toNat_lutCell_of_nil rfl hi,
    stRawCell_of_not_valid rfl, rfl⟩
  simp only [List.forall_mem_cons]
  exact ⟨rfl, statusWord_resetWith p, rfl, errWord_resetWith p, rfl, rfl, rfl, rfl, rfl, rfl, rfl, rfl,
    fun _ h => nomatch h⟩

/-- Settles O16: the busy lock of each of the three writes. -/
theorem busyLockDropsWrites : Obligations.BusyLockDropsWrites := by
  intro s hb
  have hpop : s.popEvent.busy = true := hb
  refine ⟨fun n v he hn => ?_, fun i v he => ?_, fun a v he => ?_⟩
  · rw [step_of_nextEvent he, perform_writeReg hn, State.writeRegister_of_busy hpop]
  · rw [step_of_nextEvent he, perform, State.writeLut_of_busy hpop]
  · rw [step_of_nextEvent he, perform, State.writeImg_of_busy hpop]

/-- Settles O18: the write reads back as `readRegister_writeRegister_same` says, and only the descriptor changes. -/
theorem registerWriteReadBack : Obligations.RegisterWriteReadBack := by
  intro s n v hb he hn
  have hpop : s.popEvent.busy = false := hb
  have hn0 : n ≠ 0 := by rintro rfl; simp at hn
  refine ⟨s.popEvent.writeRegister n v, ?_, readRegister_writeRegister_same hpop hn v,
    fun m hm => readRegister_writeRegister_of_ne hm s.popEvent v, ?_, ?_⟩
  · rw [step_of_nextEvent he, perform_writeReg hn0]
  · rw [State.writeRegister_of_not_busy hpop]
  · rw [State.writeRegister_of_not_busy hpop]
    exact ⟨fun _ => rfl, fun _ => rfl⟩

end Sys2Proof.Machine
end

section
/-! PROOFS. What a running job reads stays as it is, short of a hardware reset. -/

namespace Sys2Proof.Machine

/-- What a running job reads and the host wrote: the parameters, the descriptor and the contents of both tables. -/
structure SameJobInputs (s t : State) : Prop where
  params : t.params = s.params
  job : t.job = s.job
  lut : t.lut = s.lut
  img : t.img = s.img
  imgEpoch : t.env.imgEpoch = s.env.imgEpoch

theorem SameJobInputs.sameMemory {s t : State} (h : SameJobInputs s t) : SameMemory s t :=
  ⟨fun a => by rw [State.imgCell, h.img, h.imgEpoch, State.imgCell],
    fun i => by rw [State.lutCell, h.lut, State.lutCell]⟩

/-- What no instruction writes is as it was before the event was taken off the schedule. -/
theorem State.SameInputs.sameJobInputs {s t : State} (h : s.popEvent.SameInputs t) : SameJobInputs s t :=
  ⟨h.params, h.job, h.lut, h.img, h.imgEpoch⟩

theorem sameInputs_coreStep {s t : State} (h : coreStep s = .next t) : s.SameInputs t := by
  obtain ⟨-, rfl⟩ | ⟨-, -, rfl⟩ | ⟨-, -, i, -, hexec⟩ := coreStep_cases h
  · exact .rfl
  · constructor <;> simp
  · exact exec_sameInputs hexec

theorem sameInputs_writeCtrl {s t : State} {v : Word} (h : execAll (decodeCtrl v) s = .next t) : s.SameInputs t := by
  obtain ⟨u, hu, hsu⟩ := execAll_decodeCtrl v s
  cases hu.symm.trans h
  exact hsu

/-- No event but a hardware reset changes what a running job reads (20_memory.md R72). -/
theorem sameJobInputs_of_busy {s t : State} (hb : s.busy = true) (hne : s.nextEvent ≠ .hardwareReset)
    (h : step s = .next t) : SameJobInputs s t := by
  have hpop : s.popEvent.busy = true := hb
  obtain ⟨-, hcore⟩ | ⟨v, -, hctrl⟩ | ⟨n, v, -, -, rfl⟩ | ⟨⟨v, rfl⟩, -⟩ | ⟨⟨i, rfl⟩, -⟩ | ⟨i, v, -, rfl⟩
    | ⟨a, v, -, rfl⟩ | ⟨he, -⟩ := step_cases h
  · exact (sameInputs_coreStep hcore).sameJobInputs
  · exact (sameInputs_writeCtrl hctrl).sameJobInputs
  · rw [State.writeRegister_of_busy hpop]
    exact State.SameInputs.rfl.sameJobInputs
  · exact ⟨rfl, rfl, rfl, rfl, rfl⟩
  · exact ⟨rfl, rfl, rfl, rfl, rfl⟩
  · rw [State.writeLut_of_busy hpop]
    exact State.SameInputs.rfl.sameJobInputs
  · rw [State.writeImg_of_busy hpop]
    exact State.SameInputs.rfl.sameJobInputs
  · exact absurd he hne

/-- Settles O17: a cell reads as its list and its epoch say, and both are as before. -/
theorem jobInputsConstantWhileBusy : Obligations.JobInputsConstantWhileBusy := by
  intro s t hb hne h
  have hsame := sameJobInputs_of_busy hb hne h
  exact ⟨hsame.params, hsame.job, hsame.lut, hsame.img, hsame.sameMemory⟩

end Sys2Proof.Machine
end

section
/-! PROOFS. The invariant: one lemma for each named update of State, one for each stage operation and host command, and
from them that every step keeps it. -/

namespace Sys2Proof.Machine

/-! ## What the invariant asks of a busy core and of a terminal state -/

/-- Nothing stands in the record and no reply is held: what `START` leaves, and what every stage of a job finds
(10_state.md R26, R27, 46_job_fsm.md R212). -/
structure NothingRecorded (r : Result) : Prop where
  errCode : r.errCode = 0
  errStage : r.errStage = 0
  errInfo : r.errInfo = 0
  stValid : r.stValid = false
  stFrame : r.stFrame = .zero

/-- The part of `RecordInv` about the status registers, without the condition on `JOB_STATE`: it holds already while
`STATUS.op` raises an error over the reply it has just decoded (45_protocol_decoder.md R200). -/
def StatusHeld (s : State) : Prop :=
  if s.res.stValid then
    s.res.stRaw.length = s.params.wire.statusLen ∧ s.params.wire.statusCheck.holds s.res.stRaw = true
    ∧ s.res.stFrame = decodeStatus s.params.wire s.res.stRaw
  else s.res.stFrame = .zero

theorem JobState.ne_terminal_of_busy {j : JobState} (h : j.busy = true) : j ≠ .done ∧ j ≠ .failed := by
  constructor <;> rintro rfl <;> cases h

theorem Inv.statusHeld {s : State} (h : Inv s) : StatusHeld s := by
  obtain ⟨-, hst⟩ := h.record
  unfold StatusHeld
  split
  · rename_i hv
    obtain ⟨hlen, hcheck, hframe, -⟩ := (if_pos hv).mp hst
    exact ⟨hlen, hcheck, hframe⟩
  · rename_i hv
    exact (if_neg hv).mp hst

theorem Inv.nothingRecorded {s : State} (h : Inv s) (hb : s.busy = true) : NothingRecorded s.res := by
  obtain ⟨hdone, hfailed⟩ := JobState.ne_terminal_of_busy hb
  obtain ⟨herr, hst⟩ := h.record
  simp only [hfailed, if_false, hdone, or_self, and_false] at herr hst
  obtain ⟨hcode, hstage, hinfo⟩ := herr
  cases hv : s.res.stValid
  · exact ⟨hcode, hstage, hinfo, hv, by simpa [hv] using hst⟩
  · simp [hv] at hst

/-- Before `Transferring` no frame has been sent, and the StatusRequest frame has not been written. -/
theorem Inv.position_eq_zero {s : State} (h : Inv s) (hb : s.busy = true) (hc : s.ctl.jobState.code.toNat ≤ 5) :
    s.ctl.frameIdx = 0 ∧ s.ctl.awSub = false := by
  obtain ⟨-, hidx, haw⟩ := h.position
  refine ⟨hidx ⟨hc, hb⟩, Bool.eq_false_iff.2 fun ha => ?_⟩
  obtain hj | hj | hj := haw ha <;> rw [hj] at hc <;> simp [JobState.code] at hc

theorem Inv.frameIdx_le {s : State} (h : Inv s) : s.ctl.frameIdx.toNat ≤ s.res.nLines.toNat + 3 := by
  obtain ⟨hidx, -⟩ := h.position
  exact hidx

theorem Inv.devOwn_eq_busy {s : State} (h : Inv s) : s.ctl.devOwn = s.busy := by
  obtain ⟨hown, -⟩ := h.handle
  exact hown

theorem Inv.busy_of_cancelPend {s : State} (h : Inv s) (hc : s.ctl.cancelPend = true) : s.busy = true := by
  obtain ⟨-, hpend⟩ := h.handle
  exact hpend hc

theorem positionInv_of_eq_zero {s : State} (hidx : s.ctl.frameIdx = 0) (haw : s.ctl.awSub = false) :
    PositionInv s := by
  simp [PositionInv, hidx, haw]

/-- A busy core has the invariant when it owns the handle, has recorded nothing, and stands right in its job. -/
theorem Inv.of_busy {s : State} (hb : s.busy = true) (hown : s.ctl.devOwn = true) (hmem : MemoryInv s)
    (hrec : NothingRecorded s.res) (hpos : PositionInv s) (hpipe : PipelineInv s) : Inv s where
  handle := ⟨hown.trans hb.symm, fun _ => hb⟩
  memory := hmem
  record := by simp [RecordInv, hrec.errCode, hrec.errStage, hrec.errInfo, hrec.stValid, hrec.stFrame,
    (JobState.ne_terminal_of_busy hb).2]
  position := hpos
  pipeline := hpipe

/-- A step within a job keeps the handle, the tables and the record; what it has to show is where the job stands. -/
theorem Inv.advance {s t : State} (h : Inv s) (hb : s.busy = true) (htb : t.busy = true)
    (hown : t.ctl.devOwn = s.ctl.devOwn) (hlut : t.lut = s.lut) (himg : t.img = s.img)
    (hres : t.res = { s.res with outHeight := t.res.outHeight, nLines := t.res.nLines })
    (hpos : PositionInv t) (hpipe : PipelineInv t) : Inv t := by
  have hrec := h.nothingRecorded hb
  refine Inv.of_busy htb (hown.trans (h.devOwn_eq_busy.trans hb)) ?_ ?_ hpos hpipe
  · simpa [MemoryInv, hlut, himg] using h.memory
  · rw [hres]
    exact ⟨hrec.errCode, hrec.errStage, hrec.errInfo, hrec.stValid, hrec.stFrame⟩

/-- Every abort ends in the invariant, whatever stage it comes from (60_exceptions.md R246). -/
theorem inv_abort {s : State} (e : PrintError) (hmem : MemoryInv s) (hst : StatusHeld s)
    (hidx : s.ctl.frameIdx.toNat ≤ s.res.nLines.toNat + 3) : Inv (s.abort e) where
  handle := by simp [HandleInv, State.busy, JobState.busy]
  memory := by simpa [MemoryInv] using hmem
  record := by simpa [RecordInv, StatusHeld, PrintError.code_mem] using hst
  position := by simpa [PositionInv, State.busy, JobState.busy] using hidx
  pipeline := by simp [PipelineInv]

/-- Entry to `Done` ends in the invariant (45_protocol_decoder.md R190). -/
theorem inv_enterDone {s : State} (hmem : MemoryInv s) (hst : StatusHeld s)
    (herr : s.res.errCode = 0 ∧ s.res.errStage = 0 ∧ s.res.errInfo = 0)
    (hidx : s.ctl.frameIdx.toNat ≤ s.res.nLines.toNat + 3) : Inv s.enterDone where
  handle := by simp [HandleInv, State.busy, JobState.busy]
  memory := hmem
  record := by simpa [RecordInv, StatusHeld, herr] using hst
  position := by simpa [PositionInv, State.busy, JobState.busy] using hidx
  pipeline := by simp [PipelineInv]

/-- A core at its reset values has the invariant (10_state.md R42). -/
theorem inv_of_reset_values {s : State} (hctl : s.ctl = Control.reset) (hres : s.res = Result.reset)
    (hlut : s.lut = []) (himg : s.img = []) : Inv s where
  handle := by simp [HandleInv, State.busy, JobState.busy, hctl, Control.reset]
  memory := by simp [MemoryInv, hlut, himg, Memory.wf_nil]
  record := by simp [RecordInv, hctl, hres, Control.reset, Result.reset]
  position := positionInv_of_eq_zero (by rw [hctl]; rfl) (by rw [hctl]; rfl)
  pipeline := by simp [PipelineInv, hctl, Control.reset]

/-! ## The environment, the flags, and the host's writes -/

theorem State.rasterLines_withEnv {s : State} {ser : Serial} {env : Env} (he : env.bufEpoch = s.env.bufEpoch) :
    State.rasterLines { s with ser := ser, env := env } = s.rasterLines := by
  simp [State.rasterLines, State.rasterCells, he]

/-- The invariant speaks neither of the serial registers nor of the environment, but for the free values of the buffers
held. -/
theorem Inv.withEnv {s : State} {ser : Serial} {env : Env} (h : Inv s) (he : env.bufEpoch = s.env.bufEpoch) :
    Inv { s with ser := ser, env := env } where
  handle := h.handle
  memory := h.memory
  record := h.record
  position := h.position
  pipeline := by
    have hp := h.pipeline
    unfold PipelineInv at hp ⊢
    simp only [State.rasterLines_withEnv he]
    exact hp

theorem Inv.devWrite {s : State} (h : Inv s) (f : List Byte) : Inv (s.devWrite f) := h.withEnv rfl

theorem Inv.startRead {s : State} (h : Inv s) (n : Nat) : Inv (s.startParser.devRead n) := h.withEnv rfl

/-- `BUSY_REJECT` may take any value, and a cancellation may be pending while the core is busy. -/
theorem Inv.withFlags {s : State} {pending reject : Bool} (h : Inv s) (hp : pending = true → s.busy = true) :
    Inv { s with ctl := { s.ctl with cancelPend := pending, busyReject := reject } } where
  handle := ⟨h.devOwn_eq_busy, hp⟩
  memory := h.memory
  record := h.record
  position := h.position
  pipeline := h.pipeline

theorem pipelineInv_of_not_busy {s : State} (hb : s.busy = false) : PipelineInv s := by
  unfold State.busy at hb
  unfold PipelineInv
  cases hj : s.ctl.jobState <;> simp_all [JobState.busy]

/-- The host may write its registers and tables while the core is not busy, as long as the tables stay in canonical
form. -/
theorem Inv.withInputs {s : State} {job : Job} {lut img : Memory} (h : Inv s) (hb : s.busy = false)
    (hlut : Memory.wf 256 lutDefault lut = true) (himg : Memory.wf imgSpace imgDefault img = true) :
    Inv { s with job := job, lut := lut, img := img } where
  handle := h.handle
  memory := ⟨hlut, himg⟩
  record := h.record
  position := h.position
  pipeline := pipelineInv_of_not_busy hb

theorem Inv.writeRegister {s : State} (h : Inv s) (n : Nat) (v : Word) : Inv (s.writeRegister n v) := by
  obtain ⟨hlut, himg⟩ := h.memory
  cases hb : s.busy
  · rw [State.writeRegister_of_not_busy hb]
    exact h.withInputs hb hlut himg
  · rwa [State.writeRegister_of_busy hb]

theorem Inv.writeLut {s : State} (h : Inv s) (i v : Byte) : Inv (s.writeLut i v) := by
  obtain ⟨hlut, himg⟩ := h.memory
  cases hb : s.busy
  · rw [State.writeLut_of_not_busy hb]
    exact h.withInputs hb (Memory.wf_put hlut i.isLt) himg
  · rwa [State.writeLut_of_busy hb]

theorem Inv.writeImg {s : State} (h : Inv s) (a : Nat) (v : Byte) : Inv (s.writeImg a v) := by
  obtain ⟨hlut, himg⟩ := h.memory
  cases hb : s.busy
  · by_cases ha : a < imgSpace
    · rw [State.writeImg_of_not_busy hb ha]
      exact h.withInputs hb hlut (Memory.wf_put himg ha)
    · rwa [State.writeImg_of_le (not_lt.1 ha)]
  · rwa [State.writeImg_of_busy hb]

/-! ## The host commands -/

theorem Inv.rearm {s : State} (h : Inv s) : Inv s.rearm :=
  Inv.of_busy rfl rfl h.memory ⟨rfl, rfl, rfl, rfl, rfl⟩ (positionInv_of_eq_zero rfl rfl) trivial

theorem Inv.execStart {s t : State} (h : Inv s) (ht : exec .start s = .next t) : Inv t := by
  cases ht
  dsimp only
  split
  · exact h.withFlags h.busy_of_cancelPend
  · exact h.rearm

theorem Inv.execCancel {s t : State} (h : Inv s) (ht : exec .cancel s = .next t) : Inv t := by
  cases ht
  dsimp only
  split
  · rename_i hb
    exact h.withFlags fun _ => hb
  · exact h

theorem Inv.execClrBusy {s t : State} (h : Inv s) (ht : exec .clrBusy s = .next t) : Inv t := by
  cases ht
  exact h.withFlags h.busy_of_cancelPend

theorem mem_decodeCtrl {v : Word} {i : Instr} (h : i ∈ decodeCtrl v) : i = .clrBusy ∨ i = .cancel ∨ i = .start := by
  simp only [decodeCtrl, List.mem_append, List.mem_ite_nil_right, List.mem_singleton] at h
  tauto

/-- What every instruction of a sequence keeps, the sequence keeps. -/
theorem execAll_preserves {P : State → Prop} {is : List Instr} {s t : State}
    (hP : ∀ i ∈ is, ∀ s t, P s → exec i s = .next t → P t) (hs : P s) (h : execAll is s = .next t) : P t := by
  induction is generalizing s with
  | nil =>
    cases h
    exact hs
  | cons i is ih =>
    rw [execAll] at h
    cases hi : exec i s with
    | next u =>
      rw [hi] at h
      exact ih (fun j hj => hP j (List.mem_cons_of_mem _ hj)) (hP i List.mem_cons_self s u hs hi) h
    | fault r => rw [hi] at h; cases h
    | refused r => rw [hi] at h; cases h

theorem Inv.writeCtrl {s t : State} {v : Word} (h : Inv s) (ht : execAll (decodeCtrl v) s = .next t) : Inv t := by
  refine execAll_preserves (fun i hi s t hs hst => ?_) h ht
  obtain rfl | rfl | rfl := mem_decodeCtrl hi
  · exact hs.execClrBusy hst
  · exact hs.execCancel hst
  · exact hs.execStart hst

/-! ## The stage operations -/

/-- Every error a stage raises over the state of the invariant ends in the invariant. -/
theorem Inv.abort {s : State} (h : Inv s) (e : PrintError) : Inv (s.abort e) :=
  inv_abort e h.memory h.statusHeld h.frameIdx_le

theorem State.render_length (s : State) (g : Geometry) :
    (s.render g).length = g.height s.params.cfg * s.params.cfg.width * s.job.channels := by
  simp [State.render]

theorem State.busy_of_jobState {s : State} {j : JobState} (hj : s.ctl.jobState = j) : s.busy = j.busy :=
  congrArg JobState.busy hj

/-- `SCALE` leaves an image of the height it records (40_scaler.md R120). -/
theorem Inv.scale {s : State} (h : Inv s) (hj : s.ctl.jobState = .scaling) : Inv s.scale := by
  have hb := State.busy_of_jobState hj
  obtain ⟨hidx, haw⟩ := h.position_eq_zero hb (by rw [hj]; decide)
  unfold State.scale
  split
  · exact h.abort _
  · split
    · exact h.abort _
    · rename_i g hg
      obtain ⟨-, -, -, -, hmax, hmax16⟩ := paramsCfg_bounds s.params
      obtain ⟨hlo, hhi⟩ := chooseGeometry_height hmax hg
      have hheight : (BitVec.ofNat 16 (g.height s.params.cfg)).toNat = g.height s.params.cfg := by
        rw [BitVec.toNat_ofNat]
        omega
      refine h.advance hb rfl rfl rfl rfl rfl (positionInv_of_eq_zero hidx haw) ?_
      simp only [PipelineInv, GoodHeight, hheight, State.render_length]
      exact ⟨⟨hlo, hhi⟩, trivial⟩

/-- `GAMMA` leaves one sample per pixel (41_gamma.md R130). -/
theorem Inv.gamma {s : State} (h : Inv s) (hj : s.ctl.jobState = .correctingGamma) : Inv s.gamma := by
  have hb := State.busy_of_jobState hj
  obtain ⟨hidx, haw⟩ := h.position_eq_zero hb (by rw [hj]; decide)
  have hpipe := h.pipeline
  simp only [PipelineInv, hj] at hpipe
  obtain ⟨hheight, -⟩ := hpipe
  refine h.advance hb rfl rfl rfl rfl rfl (positionInv_of_eq_zero hidx haw) ⟨hheight, ?_⟩
  simp only [State.gamma, List.length_map]
  exact luminances_length (by simp [State.scaledCells, Job.channels])

/-- `DITHER` leaves one dot per pixel (42_ditherer.md R140). -/
theorem Inv.dither {s : State} (h : Inv s) (hj : s.ctl.jobState = .dithering) : Inv s.dither := by
  have hb := State.busy_of_jobState hj
  obtain ⟨hidx, haw⟩ := h.position_eq_zero hb (by rw [hj]; decide)
  have hpipe := h.pipeline
  simp only [PipelineInv, hj] at hpipe
  obtain ⟨hheight, -⟩ := hpipe
  refine h.advance hb rfl rfl rfl rfl rfl (positionInv_of_eq_zero hidx haw) ⟨hheight, ?_⟩
  exact ditherImage_length (by simp [State.grayCells])

/-- `PACK` does not cut a height that `SCALE` produced (43_packer.md R156). -/
theorem packCount_of_goodHeight {s : State} (h : GoodHeight s s.res.outHeight) :
    s.packCount = s.res.outHeight.toNat := min_eq_left h.2

theorem packedRaster_length (s : State) (bytes off : Nat) :
    (s.packRows.map fun m => packLine bytes m off).flatten.length = s.packCount * bytes := by
  rw [length_flatten_of_forall (n := bytes) (by simp), List.length_map, packRows_length]

/-- `PACK` leaves one line per row, each of `BYTES` bytes (43_packer.md R155, R163). -/
theorem Inv.pack {s : State} (h : Inv s) (hj : s.ctl.jobState = .packing) : Inv s.pack := by
  have hb := State.busy_of_jobState hj
  obtain ⟨hidx, haw⟩ := h.position_eq_zero hb (by rw [hj]; decide)
  have hpipe := h.pipeline
  simp only [PipelineInv, hj] at hpipe
  obtain ⟨hheight, -⟩ := hpipe
  unfold State.pack
  split
  · exact h.abort _
  · refine h.advance hb rfl rfl rfl rfl rfl (positionInv_of_eq_zero hidx haw) ?_
    simp only [PipelineInv, packedRaster_length, packCount_of_goodHeight hheight, BitVec.ofNat_toNat,
      BitVec.setWidth_eq]
    exact ⟨hheight, trivial, trivial⟩

/-- `ENCODE` leaves the queue of the job, with no frame sent (44_protocol_encoder.md R170). -/
theorem Inv.encodeFrames {s : State} (h : Inv s) (hj : s.ctl.jobState = .encoding) : Inv s.encodeFrames := by
  have hb := State.busy_of_jobState hj
  have hpipe := h.pipeline
  simp only [PipelineInv, hj] at hpipe
  obtain ⟨hheight, -, hraster⟩ := hpipe
  exact h.advance hb rfl rfl rfl rfl rfl (positionInv_of_eq_zero rfl rfl) ⟨hheight, hraster, rfl, Nat.succ_pos _⟩

/-- `FRAME_IDX` counts the frame sent; after the last one the job awaits the status (44_protocol_encoder.md R177). -/
theorem Inv.frameSent {s : State} (h : Inv s) (hj : s.ctl.jobState = .transferring) : Inv s.frameSent := by
  have hb := State.busy_of_jobState hj
  have hpipe := h.pipeline
  simp only [PipelineInv, hj] at hpipe
  obtain ⟨hheight, hraster, hqueue, hidx⟩ := hpipe
  have hnext : (s.ctl.frameIdx + 1).toNat = s.ctl.frameIdx.toNat + 1 :=
    BitVec.toNat_add_of_lt (by change _ + 1 < _; omega)
  have hlen : s.buf.txq.length = s.res.nLines.toNat + 3 := by simp [hqueue]
  have haw : s.ctl.awSub ≠ true := by
    obtain ⟨-, -, haw⟩ := h.position
    simpa [hj] using haw
  unfold State.frameSent
  simp only [hnext, hlen]
  split
  · rename_i hlast
    exact h.advance hb rfl rfl rfl rfl rfl
      ⟨(hnext.trans hlast).le, by simp [JobState.code], fun _ => .inl rfl⟩ (hnext.trans hlast)
  · rename_i hmore
    have hlt : s.ctl.frameIdx.toNat + 1 < s.res.nLines.toNat + 3 := by omega
    exact h.advance hb rfl rfl rfl rfl rfl
      ⟨hnext.trans_le hlt.le, by simp [JobState.code], fun ha => absurd ha haw⟩
      ⟨hheight, hraster, hqueue, hnext.trans_lt hlt⟩

/-- `TX` (44_protocol_encoder.md R177). -/
theorem Inv.transmit {s : State} (h : Inv s) (hj : s.ctl.jobState = .transferring) (f : List Byte) :
    Inv (s.transmit f) := by
  obtain ⟨-, ht⟩ | ⟨_, _, -, ht⟩ | ⟨_, -, ht⟩ := State.transmit_cases f s
  · rw [ht]
    exact (h.devWrite f).frameSent hj
  · rw [ht]
    exact (h.devWrite f).abort _
  · rw [ht]
    exact (h.devWrite f).abort _

/-- `STATREQ.op` (44_protocol_encoder.md R180). -/
theorem Inv.requestStatus {s : State} (h : Inv s) (hj : s.ctl.jobState = .awaitingStatus) (f : List Byte) :
    Inv (s.requestStatus f) := by
  have hb := State.busy_of_jobState hj
  have hpipe := h.pipeline
  simp only [PipelineInv, hj] at hpipe
  obtain ⟨-, ht⟩ | ⟨_, _, -, ht⟩ | ⟨_, -, ht⟩ := State.requestStatus_cases f s
  · rw [ht]
    refine h.advance hb rfl rfl rfl rfl rfl ⟨hpipe.le, ?_, fun _ => .inl rfl⟩ hpipe
    simp [JobState.code]
  · rw [ht]
    exact (h.devWrite f).abort _
  · rw [ht]
    exact (h.devWrite f).abort _

/-- The reply ends the job, with its decoding held if it has the length and passes the check (45_protocol_decoder.md R190
to R200). -/
theorem Inv.receiveReply {s : State} (h : Inv s) (hb : s.busy = true) {reply : List Byte}
    (hlen : reply.length ≤ s.params.wire.statusLen) : Inv (s.receiveReply reply) := by
  have hrec := h.nothingRecorded hb
  unfold State.receiveReply
  dsimp only
  split
  · exact inv_abort _ h.memory h.statusHeld h.frameIdx_le
  · rename_i hshort
    split
    · exact inv_abort _ h.memory h.statusHeld h.frameIdx_le
    · rename_i hcheck
      have hfull : reply.length = s.params.wire.statusLen := by omega
      rw [Bool.not_eq_false] at hcheck
      split
      · exact inv_abort _ h.memory ⟨hfull, hcheck, rfl⟩ h.frameIdx_le
      · exact inv_enterDone h.memory ⟨hfull, hcheck, rfl⟩ ⟨hrec.errCode, hrec.errStage, hrec.errInfo⟩ h.frameIdx_le

/-- `STATUS.op` (45_protocol_decoder.md R190). -/
theorem Inv.readStatus {s : State} (h : Inv s) (hb : s.busy = true) : Inv s.readStatus := by
  obtain ⟨reply, -, hlen, ht⟩ | ⟨_, -, ht⟩ | ⟨-, ht⟩ := State.readStatus_cases s
  · rw [ht]
    exact (h.startRead _).receiveReply hb hlen
  · rw [ht]
    exact (h.startRead _).abort _
  · rw [ht]
    exact (h.startRead _).abort _

/-! ## The step -/

/-- The operation that the control position selects keeps the invariant (46_job_fsm.md R217). -/
theorem Inv.stageOperation {s t : State} {i : Instr} (h : Inv s) (hi : decodePosition s.position = .ok i)
    (ht : exec i s = .next t) : Inv t := by
  rw [decodePosition_position] at hi
  cases hj : s.ctl.jobState <;> simp only [hj] at hi <;> cases hi
  case scaling => cases ht; exact h.scale hj
  case correctingGamma => cases ht; exact h.gamma hj
  case dithering => cases ht; exact h.dither hj
  case packing => cases ht; exact h.pack hj
  case encoding => cases ht; exact h.encodeFrames hj
  case transferring =>
    simp only [exec, execTx] at ht
    split at ht
    · cases ht
      exact h.transmit hj _
    · cases ht
  case awaitingStatus =>
    split at ht
    · cases ht
      exact h.readStatus (State.busy_of_jobState hj)
    · cases ht
      exact h.requestStatus hj _

theorem Inv.coreStep {s t : State} (h : Inv s) (ht : coreStep s = .next t) : Inv t := by
  obtain ⟨-, rfl⟩ | ⟨-, -, rfl⟩ | ⟨-, -, i, hi, hexec⟩ := coreStep_cases ht
  · exact h
  · exact inv_abort _ h.memory h.statusHeld h.frameIdx_le
  · exact h.stageOperation hi hexec

theorem Inv.popEvent {s : State} (h : Inv s) : Inv s.popEvent := h.withEnv rfl

/-- Settles O53: each event of a step, by `step_cases`, keeps the invariant. -/
theorem invariantKeptByEveryStep : Obligations.InvariantKeptByEveryStep := by
  intro s t h ht
  have hpop := h.popEvent
  obtain ⟨-, hcore⟩ | ⟨v, -, hctrl⟩ | ⟨n, v, -, -, rfl⟩ | ⟨⟨v, rfl⟩, -⟩ | ⟨⟨i, rfl⟩, -⟩ | ⟨i, v, -, rfl⟩
    | ⟨a, v, -, rfl⟩ | ⟨-, rfl⟩ := step_cases ht
  · exact hpop.coreStep hcore
  · exact hpop.writeCtrl hctrl
  · exact hpop.writeRegister n v
  · exact hpop.withEnv rfl
  · exact hpop.withEnv rfl
  · exact hpop.writeLut i v
  · exact hpop.writeImg a v
  · exact inv_of_reset_values rfl rfl rfl rfl

/-- Settles O2: reset is a core at its reset values. -/
theorem resetSatisfiesInvariant : Obligations.ResetSatisfiesInvariant :=
  fun _ => inv_of_reset_values rfl rfl rfl rfl

end Sys2Proof.Machine
end

section
/-! SUPPORT. The cells of `LUT` and `IMG` after a host write (20_memory.md R61). -/

namespace Sys2Proof.Machine

theorem Memory.rising_of_wf {size : Nat} {dflt : Nat → Option Byte} {m : Memory} (h : Memory.wf size dflt m = true) :
    m.rising = true := by
  rw [Memory.wf, Bool.and_eq_true] at h
  exact h.1

theorem lutCell_writeLut {s : State} (hb : s.busy = false) (hwf : Memory.wf 256 lutDefault s.lut = true) (i v : Byte)
    (j : Nat) : (s.writeLut i v).lutCell j = if j = i.toNat then v else s.lutCell j := by
  rw [State.writeLut_of_not_busy hb]
  exact Memory.getD_put 0 (Memory.rising_of_wf hwf)

/-- An unlisted `IMG` cell is a free value, so that the default of `Memory.getD_put` is this value at each cell. -/
theorem imgCell_writeImg {s : State} (hb : s.busy = false) (hwf : Memory.wf imgSpace imgDefault s.img = true) {a : Nat}
    (ha : a < imgSpace) (v : Byte) (b : Nat) :
    (s.writeImg a v).imgCell b = if b = a then v else s.imgCell b := by
  rw [State.writeImg_of_not_busy hb ha]
  exact Memory.getD_put (dflt := imgDefault) (Config.imgPowerOn s.env.imgEpoch b) (Memory.rising_of_wf hwf)

end Sys2Proof.Machine
end

section
/-! PROOFS. A host write to a table cell. -/

namespace Sys2Proof.Machine

/-- Settles O19: the written table by `lutCell_writeLut` and `imgCell_writeImg`; the other table is not written. -/
theorem tableWriteReadBack : Obligations.TableWriteReadBack := by
  rintro s hb ⟨hlut, himg⟩
  have hpop : s.popEvent.busy = false := hb
  refine ⟨fun i v he => ⟨s.popEvent.writeLut i v, step_of_nextEvent he, lutCell_writeLut hpop hlut i v, ?_, ?_⟩,
    fun a v he ha => ⟨s.popEvent.writeImg a v, step_of_nextEvent he, imgCell_writeImg hpop himg ha v, ?_, ?_⟩,
    fun a v he ha => ?_⟩
  · rw [State.writeLut_of_not_busy hpop]
    exact fun _ => rfl
  · rw [State.writeLut_of_not_busy hpop]
  · rw [State.writeImg_of_not_busy hpop ha]
    exact fun _ => rfl
  · rw [State.writeImg_of_not_busy hpop ha]
  · rw [step_of_nextEvent he, perform, State.writeImg_of_le ha]

end Sys2Proof.Machine
end

section
/-! PROOFS. `TX`, by whether the queue has a frame at `FRAME_IDX` (44_protocol_encoder.md R177). -/

namespace Sys2Proof.Machine

theorem exec_tx_of_frame {s : State} {f : List Byte} (hf : s.buf.txq[s.ctl.frameIdx.toNat]? = some f) :
    exec .tx s = .next (s.transmit f) := by
  simp only [exec, execTx, hf]

/-- Settles O44: `TX` finds no frame beyond the end of the queue. -/
theorem txWithoutFrameFaults : Obligations.TxWithoutFrameFaults := by
  intro s hidx
  have hnone : s.buf.txq[s.ctl.frameIdx.toNat]? = none := List.getElem?_eq_none hidx
  simp only [exec, execTx, hnone]

theorem exists_frame_of_exec_tx {s t : State} (h : exec .tx s = .next t) :
    ∃ f, s.buf.txq[s.ctl.frameIdx.toNat]? = some f ∧ t = s.transmit f := by
  cases hf : s.buf.txq[s.ctl.frameIdx.toNat]? with
  | none =>
    rw [txWithoutFrameFaults s (List.getElem?_eq_none_iff.1 hf)] at h
    cases h
  | some f =>
    rw [exec_tx_of_frame hf] at h
    cases h
    exact ⟨f, rfl, rfl⟩

end Sys2Proof.Machine
end

section
/-! PROOFS. What was sent stays sent: one lemma for each operation that may call LINK, and from them that every event but
a hardware reset only adds to `TX_LOG` and to the calls made (20_memory.md R70 (a), R78). -/

namespace Sys2Proof.Machine

/-- `TX_LOG` and the calls made have only grown from `s` to `t`. -/
structure SentGrows (s t : State) : Prop where
  txLog : s.env.txLog <+: t.env.txLog
  calls : s.env.calls <+: t.env.calls

/-! ## The operations on LINK -/

theorem SentGrows.rfl {s : State} : SentGrows s s := ⟨List.prefix_rfl, List.prefix_rfl⟩

theorem SentGrows.trans {s t u : State} (h : SentGrows s t) (k : SentGrows t u) : SentGrows s u :=
  ⟨h.txLog.trans k.txLog, h.calls.trans k.calls⟩

theorem NothingSent.sentGrows {s t : State} (h : NothingSent s t) : SentGrows s t := by
  obtain ⟨hlog, hcalls⟩ := h
  exact ⟨hlog ▸ List.prefix_rfl, hcalls ▸ List.prefix_rfl⟩

theorem sentGrows_of_env_eq {s t : State} (h : t.env = s.env) : SentGrows s t :=
  NothingSent.sentGrows ⟨congrArg Env.txLog h, congrArg Env.calls h⟩

theorem sentGrows_devWrite (f : List Byte) (s : State) : SentGrows s (s.devWrite f) :=
  ⟨List.prefix_append _ _, List.prefix_append _ _⟩

theorem sentGrows_startRead (n : Nat) (s : State) : SentGrows s (s.startParser.devRead n) :=
  ⟨List.prefix_rfl, List.prefix_append _ _⟩

/-- The reset frame of an abort comes after what was sent before (60_exceptions.md R247). -/
theorem SentGrows.abort {s t : State} {e : PrintError} (h : SentGrows s t) : SentGrows s (t.abort e) where
  txLog := by
    rw [State.abort_txLog]
    exact h.txLog.trans (List.prefix_append _ _)
  calls := by
    rw [State.abort_calls]
    exact h.calls.trans (List.prefix_append _ _)

theorem nothingSent_frameSent (s : State) : NothingSent s s.frameSent :=
  ⟨State.frameSent_txLog s, State.frameSent_calls s⟩

/-! ## The instructions -/

theorem sentGrows_transmit (f : List Byte) (s : State) : SentGrows s (s.transmit f) := by
  have hwrite := sentGrows_devWrite f s
  obtain ⟨-, ht⟩ | ⟨_, _, -, ht⟩ | ⟨_, -, ht⟩ := State.transmit_cases f s
  · exact ht ▸ hwrite.trans (nothingSent_frameSent _).sentGrows
  · exact ht ▸ hwrite.abort
  · exact ht ▸ hwrite.abort

theorem sentGrows_requestStatus (f : List Byte) (s : State) : SentGrows s (s.requestStatus f) := by
  have hwrite := sentGrows_devWrite f s
  obtain ⟨-, ht⟩ | ⟨_, _, -, ht⟩ | ⟨_, -, ht⟩ := State.requestStatus_cases f s
  · exact ht ▸ ⟨hwrite.txLog, hwrite.calls⟩
  · exact ht ▸ hwrite.abort
  · exact ht ▸ hwrite.abort

/-- The verdict on a reply calls LINK for the reset frame of an error only (45_protocol_decoder.md R190, R200). -/
theorem sentGrows_receiveReply (reply : List Byte) (s : State) : SentGrows s (s.receiveReply reply) := by
  unfold State.receiveReply
  dsimp only
  split
  · exact SentGrows.abort (sentGrows_of_env_eq rfl)
  · split
    · exact SentGrows.abort (sentGrows_of_env_eq rfl)
    · split
      · exact SentGrows.abort (sentGrows_of_env_eq rfl)
      · exact NothingSent.sentGrows ⟨rfl, rfl⟩

theorem sentGrows_readStatus (s : State) : SentGrows s s.readStatus := by
  have hread := sentGrows_startRead s.params.wire.statusLen s
  obtain ⟨_, -, -, ht⟩ | ⟨_, -, ht⟩ | ⟨-, ht⟩ := State.readStatus_cases s
  · exact ht ▸ hread.trans (sentGrows_receiveReply _ _)
  · exact ht ▸ hread.abort
  · exact ht ▸ hread.abort

theorem sentGrows_scale (s : State) : SentGrows s s.scale := by
  unfold State.scale
  split
  · exact SentGrows.rfl.abort
  · split
    · exact SentGrows.rfl.abort
    · exact sentGrows_of_env_eq rfl

theorem sentGrows_pack (s : State) : SentGrows s s.pack := by
  unfold State.pack
  split
  · exact SentGrows.rfl.abort
  · exact sentGrows_of_env_eq rfl

theorem sentGrows_exec {i : Instr} {s t : State} (h : exec i s = .next t) : SentGrows s t := by
  cases i with
  | scale => cases h; exact sentGrows_scale s
  | gamma => cases h; exact sentGrows_of_env_eq rfl
  | dither => cases h; exact sentGrows_of_env_eq rfl
  | pack => cases h; exact sentGrows_pack s
  | encode => cases h; exact sentGrows_of_env_eq rfl
  | tx =>
    obtain ⟨f, -, rfl⟩ := exists_frame_of_exec_tx h
    exact sentGrows_transmit f s
  | statreqOp => cases h; exact sentGrows_requestStatus _ s
  | statusOp => cases h; exact sentGrows_readStatus s
  | start => cases h; dsimp only; split <;> exact sentGrows_of_env_eq rfl
  | cancel => cases h; dsimp only; split <;> exact sentGrows_of_env_eq rfl
  | clrBusy => cases h; exact sentGrows_of_env_eq rfl
  | init => cases h; exact sentGrows_transmit _ s
  | media id n => cases h; exact sentGrows_transmit _ s
  | raster line => cases h; exact sentGrows_transmit _ s
  | print => cases h; exact sentGrows_transmit _ s
  | statreq => cases h; exact sentGrows_requestStatus _ s
  | status reply => cases h; exact (sentGrows_startRead _ s).trans (sentGrows_receiveReply _ _)

/-! ## The step -/

theorem sentGrows_coreStep {s t : State} (h : coreStep s = .next t) : SentGrows s t := by
  obtain ⟨-, rfl⟩ | ⟨-, -, rfl⟩ | ⟨-, -, i, -, hexec⟩ := coreStep_cases h
  · exact .rfl
  · exact SentGrows.abort (sentGrows_of_env_eq rfl)
  · exact sentGrows_exec hexec

theorem sentGrows_execAll {is : List Instr} {s t : State} (h : execAll is s = .next t) : SentGrows s t :=
  execAll_preserves (P := SentGrows s) (fun _ _ _ _ hu hexec => hu.trans (sentGrows_exec hexec)) .rfl h

/-- Settles O58: the core's step and the commands by the lemmas above; a host access sends nothing. -/
theorem logOnlyGrows : Obligations.LogOnlyGrows := by
  intro s t h hne
  suffices hgrows : SentGrows s.popEvent t from ⟨hgrows.txLog, hgrows.calls⟩
  obtain ⟨-, hcore⟩ | ⟨v, -, hctrl⟩ | ⟨n, v, -, -, rfl⟩ | ⟨⟨v, rfl⟩, -⟩ | ⟨⟨i, rfl⟩, -⟩ | ⟨i, v, -, rfl⟩
    | ⟨a, v, -, rfl⟩ | ⟨he, -⟩ := step_cases h
  · exact sentGrows_coreStep hcore
  · exact sentGrows_execAll hctrl
  · exact sentGrows_of_env_eq (State.writeRegister_env _ _ _)
  · exact NothingSent.sentGrows ⟨rfl, rfl⟩
  · exact NothingSent.sentGrows ⟨rfl, rfl⟩
  · exact sentGrows_of_env_eq (State.writeLut_env _ _ _)
  · exact sentGrows_of_env_eq (State.writeImg_env _ _ _)
  · exact absurd he hne

end Sys2Proof.Machine
end

section
/-! SUPPORT. Runs of several steps, and the step of a core left to itself. -/

namespace Sys2Proof.Machine

theorem run_one (M : Host.Core) (s : M.State) : M.run 1 s = M.step s := by
  simp only [Host.Core.run]
  cases M.step s <;> rfl

/-- A run goes on from where its first part leads. -/
theorem run_add {M : Host.Core} {j : Nat} {s u : M.State} (h : M.run j s = .next u) (k : Nat) :
    M.run (j + k) s = M.run k u := by
  induction j generalizing s with
  | zero =>
    cases h
    rw [Nat.zero_add]
  | succ j ih =>
    rw [Nat.succ_add]
    simp only [Host.Core.run] at h ⊢
    cases hs : M.step s with
    | next v =>
      simp only [hs] at h ⊢
      exact ih h
    | fault r => simp [hs] at h
    | refused r => simp [hs] at h

theorem popEvent_of_schedule_nil {s : State} (h : s.env.schedule = []) : s.popEvent = s := by
  rw [State.popEvent, h, List.tail_nil, ← h]

theorem step_of_schedule_nil {s : State} (h : s.env.schedule = []) : step s = coreStep s := by
  have he : s.nextEvent = .core := by rw [State.nextEvent, h, List.headD_nil]
  rw [step_of_nextEvent he, perform, popEvent_of_schedule_nil h]

theorem coreStep_of_not_cancelPend {s : State} {i : Instr} (hb : s.busy = true) (hc : s.ctl.cancelPend = false)
    (hi : decodePosition s.position = .ok i) : coreStep s = exec i s := by
  simp [coreStep, hb, hc, hi]

end Sys2Proof.Machine
end

section
/-! PROOFS. The queue is sent in order, one frame a step, by a link that accepts every frame
(44_protocol_encoder.md R171, R177, R178). -/

namespace Sys2Proof.Machine

theorem nextWrite_of_getElem? {s : State} {a : WriteAnswer} (h : s.env.writeAnswers[0]? = some a) :
    s.nextWrite = a := by
  obtain ⟨rest, hrest⟩ := List.head?_eq_some_iff.1 (List.head?_eq_getElem?.trans h)
  rw [State.nextWrite, hrest]

theorem transmit_of_ok {s : State} (h : s.nextWrite = .ok) (f : List Byte) :
    s.transmit f = (s.devWrite f).frameSent := by
  rw [State.transmit, h]

@[simp] theorem State.frameSent_jobState (s : State) : s.frameSent.ctl.jobState =
    if (s.ctl.frameIdx + 1).toNat = s.buf.txq.length then .awaitingStatus else .transferring := by
  unfold State.frameSent
  dsimp only
  split <;> rfl

theorem State.frameSent_buf_of_ne {s : State} (h : (s.ctl.frameIdx + 1).toNat ≠ s.buf.txq.length) :
    s.frameSent.buf = s.buf := by
  unfold State.frameSent
  dsimp only
  rw [if_neg h]

/-- The core stands at the start of `Transferring`, left to itself, with a link that accepts every frame of the
queue. -/
structure ReadyToSend (s : State) : Prop where
  jobState : s.ctl.jobState = .transferring
  frameIdx : s.ctl.frameIdx = 0
  cancelPend : s.ctl.cancelPend = false
  schedule : s.env.schedule = []
  nonempty : 0 < s.buf.txq.length
  length_lt : s.buf.txq.length < 2 ^ 32
  accepts : ∀ i, i < s.buf.txq.length → s.env.writeAnswers[i]? = some .ok

/-- `u` is `s` after the first `j` frames of its queue have been sent: in `AwaitingStatus` after the last of them, in
`Transferring` with the buffers as before till then. -/
structure FramesSent (s u : State) (j : Nat) : Prop where
  inputs : s.SameInputs u
  res : u.res = s.res
  jobState : u.ctl.jobState = if j = s.buf.txq.length then .awaitingStatus else .transferring
  frameIdx : u.ctl.frameIdx.toNat = j
  awSub : u.ctl.awSub = s.ctl.awSub
  devOwn : u.ctl.devOwn = s.ctl.devOwn
  cancelPend : u.ctl.cancelPend = s.ctl.cancelPend
  buf : j < s.buf.txq.length → u.buf = s.buf
  txLog : u.env.txLog = s.env.txLog ++ (s.buf.txq.take j).flatten
  calls : u.env.calls = s.env.calls ++ (s.buf.txq.take j).map fun f => .write f s.job.timeout
  writeAnswers : u.env.writeAnswers = s.env.writeAnswers.drop j
  readAnswers : u.env.readAnswers = s.env.readAnswers

theorem ReadyToSend.framesSent_zero {s : State} (h : ReadyToSend s) : FramesSent s s 0 where
  inputs := .rfl
  res := rfl
  jobState := by rw [if_neg h.nonempty.ne, h.jobState]
  frameIdx := by rw [h.frameIdx]; rfl
  awSub := rfl
  devOwn := rfl
  cancelPend := rfl
  buf _ := rfl
  txLog := by simp
  calls := by simp
  writeAnswers := rfl
  readAnswers := rfl

theorem FramesSent.nextWrite {s u : State} {j : Nat} (hs : ReadyToSend s) (h : FramesSent s u j)
    (hj : j < s.buf.txq.length) : u.nextWrite = .ok :=
  nextWrite_of_getElem? (by rw [h.writeAnswers, List.getElem?_drop, Nat.add_zero, hs.accepts j hj])

/-- The next step of the machine sends the next frame. -/
theorem FramesSent.step_eq {s u : State} {j : Nat} (hs : ReadyToSend s) (h : FramesSent s u j)
    (hj : j < s.buf.txq.length) :
    step u = .next ((u.devWrite s.buf.txq[j]).frameSent) := by
  have hstate : u.ctl.jobState = .transferring := by rw [h.jobState, if_neg hj.ne]
  have hframe : u.buf.txq[u.ctl.frameIdx.toNat]? = some s.buf.txq[j] := by
    rw [h.buf hj, h.frameIdx, List.getElem?_eq_getElem hj]
  calc step u
      = coreStep u := step_of_schedule_nil (h.inputs.schedule.trans hs.schedule)
    _ = exec .tx u := coreStep_of_not_cancelPend (State.busy_of_jobState hstate) (h.cancelPend.trans hs.cancelPend)
        (by rw [decodePosition_position, hstate])
    _ = .next (u.transmit s.buf.txq[j]) := exec_tx_of_frame hframe
    _ = .next ((u.devWrite s.buf.txq[j]).frameSent) := by rw [transmit_of_ok (h.nextWrite hs hj)]

theorem FramesSent.succ {s u : State} {j : Nat} (hs : ReadyToSend s) (h : FramesSent s u j)
    (hj : j < s.buf.txq.length) : FramesSent s (u.devWrite s.buf.txq[j]).frameSent (j + 1) := by
  have hlen := hs.length_lt
  have hidx : (u.ctl.frameIdx + 1).toNat = j + 1 := by
    rw [BitVec.toNat_add_of_lt (by rw [h.frameIdx]; change j + 1 < _; omega), h.frameIdx]
    rfl
  have hok := h.nextWrite hs hj
  have htake : s.buf.txq.take (j + 1) = s.buf.txq.take j ++ [s.buf.txq[j]] := List.take_succ_eq_append_getElem hj
  exact
    { inputs := h.inputs.trans ((State.sameInputs_devWrite _ u).trans (State.sameInputs_frameSent _))
      res := by simp [h.res]
      jobState := by rw [State.frameSent_jobState, State.devWrite_ctl, State.devWrite_buf, hidx, h.buf hj]
      frameIdx := by simpa using hidx
      awSub := by simp [h.awSub]
      devOwn := by simp [h.devOwn]
      cancelPend := by simp [h.cancelPend]
      buf := fun hlt => by
        have hmore : ((u.devWrite s.buf.txq[j]).ctl.frameIdx + 1).toNat ≠ (u.devWrite s.buf.txq[j]).buf.txq.length := by
          rw [State.devWrite_ctl, State.devWrite_buf, hidx, h.buf hj]
          exact hlt.ne
        rw [State.frameSent_buf_of_ne hmore, State.devWrite_buf, h.buf hj]
      txLog := by simp [h.txLog, hok, htake, appendedBytes, -List.take_append_getElem]
      calls := by simp [h.calls, htake, h.inputs.job, -List.take_append_getElem]
      writeAnswers := by simp [h.writeAnswers]
      readAnswers := by simp [h.readAnswers] }

/-- Each step sends one frame, as long as the queue has frames. -/
theorem ReadyToSend.run {s : State} (hs : ReadyToSend s) {j : Nat} (hj : j ≤ s.buf.txq.length) :
    ∃ u, Sys2Proof.core.run j s = .next u ∧ FramesSent s u j := by
  induction j with
  | zero => exact ⟨s, rfl, hs.framesSent_zero⟩
  | succ j ih =>
    obtain ⟨u, hrun, hu⟩ := ih (Nat.le_of_succ_le hj)
    refine ⟨_, ?_, hu.succ hs hj⟩
    rw [run_add hrun 1, run_one]
    exact hu.step_eq hs hj

/-- Settles O59: the state of `ReadyToSend.run` after as many steps as the queue has frames. -/
theorem queueIsSentInOrder : Obligations.QueueIsSentInOrder := by
  intro s rest hstate hidx hcancel hsched hpos hlen hanswers
  have hs : ReadyToSend s :=
    { jobState := hstate, frameIdx := hidx, cancelPend := hcancel, schedule := hsched, nonempty := hpos
      length_lt := hlen
      accepts := fun i hi => by rw [hanswers, List.getElem?_append_left (by simpa using hi)]; simp [hi] }
  obtain ⟨t, hrun, ht⟩ := hs.run le_rfl
  refine ⟨t, hrun, ?_, ht.frameIdx, ?_, ?_⟩
  · rw [ht.jobState, if_pos rfl]
  · rw [ht.txLog, List.take_length]
  · rw [ht.calls, List.take_length]

end Sys2Proof.Machine
end

section
/-! SUPPORT. Length fields and command frames: the number a field carries (30_encoding.md R95), and what the frame
decoder reads where a frame stands (30_encoding.md R89 to R91, R99). -/

namespace Sys2Proof.Machine

/-! ## The number in a length field

Both byte orders are one argument: a big-endian field is the little-endian field backwards. -/

theorem ofNat_mod_256 (n : Nat) : BitVec.ofNat 8 (n % 256) = BitVec.ofNat 8 n :=
  BitVec.eq_of_toNat_eq (by simp)

@[simp] theorem fieldBytes_zero (n : Nat) (o : ByteOrder) : fieldBytes n 0 o = [] := rfl

theorem fieldBytes_little_succ (n width : Nat) :
    fieldBytes n (width + 1) .little = BitVec.ofNat 8 n :: fieldBytes (n / 256) width .little := by
  simp [fieldBytes, List.range_succ_eq_map, Nat.pow_succ', Nat.div_div_eq_div_mul]

theorem fieldBytes_big (n width : Nat) : fieldBytes n width .big = (fieldBytes n width .little).reverse := by
  refine List.ext_getElem (by simp) fun i hi _ => ?_
  simp [fieldBytes]

@[simp] theorem fieldValue_little_nil : fieldValue .little [] = 0 := rfl

theorem fieldValue_little_cons (b : Byte) (bs : List Byte) :
    fieldValue .little (b :: bs) = fieldValue .little bs * 256 + b.toNat := rfl

theorem fieldValue_big (bs : List Byte) : fieldValue .big bs = fieldValue .little bs.reverse := by
  simp [fieldValue]

/-- A field keeps its number modulo `256 ^ width`. -/
theorem fieldValue_fieldBytes (n width : Nat) (o : ByteOrder) :
    fieldValue o (fieldBytes n width o) = n % 256 ^ width := by
  have little : ∀ n, fieldValue .little (fieldBytes n width .little) = n % 256 ^ width := by
    induction width with
    | zero => simp [Nat.mod_one]
    | succ width ih =>
      intro n
      rw [fieldBytes_little_succ, fieldValue_little_cons, ih, Nat.pow_succ', Nat.mod_mul, BitVec.toNat_ofNat]
      omega
  cases o with
  | little => exact little n
  | big => rw [fieldValue_big, fieldBytes_big, List.reverse_reverse, little]

theorem fieldValue_fieldBytes_of_lt {n width : Nat} (h : n < 256 ^ width) (o : ByteOrder) :
    fieldValue o (fieldBytes n width o) = n := by
  rw [fieldValue_fieldBytes, Nat.mod_eq_of_lt h]

/-- The bytes of the number read from a field are the field: no byte of it is lost. -/
theorem fieldBytes_fieldValue (bs : List Byte) (o : ByteOrder) : fieldBytes (fieldValue o bs) bs.length o = bs := by
  have little : ∀ bs : List Byte, fieldBytes (fieldValue .little bs) bs.length .little = bs := by
    intro bs
    induction bs with
    | nil => rfl
    | cons b bs ih =>
      have hb : b.toNat < 256 := b.isLt
      have hdiv : (fieldValue .little bs * 256 + b.toNat) / 256 = fieldValue .little bs := by omega
      have hbyte : BitVec.ofNat 8 (fieldValue .little bs * 256 + b.toNat) = b := by
        refine BitVec.eq_of_toNat_eq ?_
        rw [BitVec.toNat_ofNat]
        omega
      rw [List.length_cons, fieldBytes_little_succ, fieldValue_little_cons, hdiv, hbyte, ih]
  cases o with
  | little => exact little bs
  | big => rw [fieldValue_big, fieldBytes_big, ← bs.length_reverse, little, List.reverse_reverse]

/-- A field at the head of a byte string is the field of its number. -/
theorem fieldBytes_fieldValue_take {bs : List Byte} {width : Nat} (h : width ≤ bs.length) (o : ByteOrder) :
    fieldBytes (fieldValue o (bs.take width)) width o = bs.take width := by
  simpa [h] using fieldBytes_fieldValue (bs.take width) o

/-- The numbers of both length fields fit them on every implementation (30_encoding.md R87). -/
theorem paramsCfg_fits_fields (p : Params) :
    p.cfg.maxLines < 256 ^ p.wire.lenWidth ∧ p.cfg.bytes < 256 ^ p.wire.rlenWidth := by
  have h := p.wire_ok
  simp only [Wire.check, Bool.and_eq_true, decide_eq_true_eq, pow_mul, Nat.reducePow] at h
  obtain ⟨⟨-, hbytes⟩, hlines⟩ := h
  exact ⟨hlines, hbytes⟩

/-! ## A frame at the head of a byte string -/

theorem afterPrefix_append (pre rest : List Byte) : afterPrefix pre (pre ++ rest) = some rest := by
  simp [afterPrefix]

theorem eq_append_of_afterPrefix {pre bs rest : List Byte} (h : afterPrefix pre bs = some rest) : bs = pre ++ rest := by
  unfold afterPrefix at h
  split at h
  · rename_i hpre
    cases h
    conv_lhs => rw [← List.take_append_drop pre.length bs, hpre]
  · cases h

/-- Two fixed strings that begin differently are told apart by their first bytes, whatever follows. -/
theorem afterPrefix_eq_none {pre tag : List Byte} (hpre : pre ≠ []) (htag : tag ≠ []) (h : pre.head? ≠ tag.head?)
    (rest : List Byte) : afterPrefix pre (tag ++ rest) = none := by
  obtain ⟨a, pre, rfl⟩ := List.exists_cons_of_ne_nil hpre
  obtain ⟨b, tag, rfl⟩ := List.exists_cons_of_ne_nil htag
  refine if_neg fun htake => h ?_
  rw [List.length_cons, List.cons_append, List.take_succ_cons, List.cons.injEq] at htake
  rw [List.head?_cons, List.head?_cons, htake.1]

/-- What the decoder needs of a `WIRE` to read every frame: no string that it tests before a frame's own begins that
frame. -/
structure FramesApart (w : Wire) : Prop where
  init_print : ∀ rest, afterPrefix w.initBytes (w.printBytes ++ rest) = none
  init_statreq : ∀ rest, afterPrefix w.initBytes (w.statreqBytes ++ rest) = none
  init_media : ∀ rest, afterPrefix w.initBytes (w.mediaTag ++ rest) = none
  init_raster : ∀ rest, afterPrefix w.initBytes (w.rasterTag ++ rest) = none
  print_statreq : ∀ rest, afterPrefix w.printBytes (w.statreqBytes ++ rest) = none
  print_media : ∀ rest, afterPrefix w.printBytes (w.mediaTag ++ rest) = none
  print_raster : ∀ rest, afterPrefix w.printBytes (w.rasterTag ++ rest) = none
  statreq_media : ∀ rest, afterPrefix w.statreqBytes (w.mediaTag ++ rest) = none
  statreq_raster : ∀ rest, afterPrefix w.statreqBytes (w.rasterTag ++ rest) = none
  media_raster : ∀ rest, afterPrefix w.mediaTag (w.rasterTag ++ rest) = none

/-- The fixed strings of a well-formed `WIRE` are not empty (30_encoding.md R87). -/
theorem paramsWire_frames_ne_nil (p : Params) :
    p.wire.initBytes ≠ [] ∧ p.wire.mediaTag ≠ [] ∧ p.wire.rasterTag ≠ [] ∧ p.wire.printBytes ≠ []
      ∧ p.wire.statreqBytes ≠ [] := by
  have h := p.wire_ok
  simp only [Wire.check, Bool.and_eq_true, Bool.not_eq_true', List.isEmpty_eq_false_iff, and_assoc] at h
  obtain ⟨hinit, hmedia, hraster, hprint, hstatreq, -⟩ := h
  exact ⟨hinit, hmedia, hraster, hprint, hstatreq⟩

theorem framesApart_of_distinctLeads {p : Params} (h : p.wire.distinctLeads = true) : FramesApart p.wire := by
  obtain ⟨hinit, hmedia, hraster, hprint, hstatreq⟩ := paramsWire_frames_ne_nil p
  simp only [Wire.distinctLeads, decide_eq_true_eq, List.nodup_cons, List.mem_cons, List.not_mem_nil, or_false,
    not_or] at h
  obtain ⟨⟨him, hir, hip, his⟩, ⟨hmr, hmp, hms⟩, ⟨hrp, hrs⟩, hps, -⟩ := h
  exact
    { init_print := afterPrefix_eq_none hinit hprint hip
      init_statreq := afterPrefix_eq_none hinit hstatreq his
      init_media := afterPrefix_eq_none hinit hmedia him
      init_raster := afterPrefix_eq_none hinit hraster hir
      print_statreq := afterPrefix_eq_none hprint hstatreq hps
      print_media := afterPrefix_eq_none hprint hmedia (Ne.symm hmp)
      print_raster := afterPrefix_eq_none hprint hraster (Ne.symm hrp)
      statreq_media := afterPrefix_eq_none hstatreq hmedia (Ne.symm hms)
      statreq_raster := afterPrefix_eq_none hstatreq hraster (Ne.symm hrs)
      media_raster := afterPrefix_eq_none hmedia hraster hmr }

/-! ## Reading a frame, whatever follows it (30_encoding.md R99) -/

section
variable {w : Wire}

theorem decodeFrame_frameInit (rest : List Byte) : decodeFrame w (frameInit w ++ rest) = .ok (.init, rest) := by
  simp only [decodeFrame, frameInit, afterPrefix_append]

theorem decodeFrame_framePrint (h : FramesApart w) (rest : List Byte) :
    decodeFrame w (framePrint w ++ rest) = .ok (.print, rest) := by
  simp only [decodeFrame, framePrint, h.init_print, afterPrefix_append]

theorem decodeFrame_frameStatreq (h : FramesApart w) (rest : List Byte) :
    decodeFrame w (frameStatreq w ++ rest) = .ok (.statreq, rest) := by
  simp only [decodeFrame, frameStatreq, h.init_statreq, h.print_statreq, afterPrefix_append]

/-- The header of a length field and what follows it, as `decodeFrame` cuts them apart. -/
theorem take_drop_fieldBytes_append (n width : Nat) (o : ByteOrder) (rest : List Byte) :
    (fieldBytes n width o ++ rest).take width = fieldBytes n width o
      ∧ (fieldBytes n width o ++ rest).drop width = rest :=
  ⟨List.take_left' (fieldBytes_length ..), List.drop_left' (fieldBytes_length ..)⟩

theorem decodeFrame_frameMedia (h : FramesApart w) (id : Byte) {n : Nat} (hn : n < 256 ^ w.lenWidth)
    (rest : List Byte) : decodeFrame w (frameMedia w id n ++ rest) = .ok (.media id n, rest) := by
  obtain ⟨htake, hdrop⟩ := take_drop_fieldBytes_append n w.lenWidth w.lenOrder rest
  have hlen : ¬ (fieldBytes n w.lenWidth w.lenOrder ++ rest).length < w.lenWidth := by simp
  simp only [decodeFrame, frameMedia, List.append_assoc, List.cons_append, h.init_media, h.print_media,
    h.statreq_media, afterPrefix_append, if_neg hlen, htake, hdrop, fieldValue_fieldBytes_of_lt hn]

theorem decodeFrame_frameRaster (h : FramesApart w) {line : List Byte} (hline : line.length < 256 ^ w.rlenWidth)
    (rest : List Byte) : decodeFrame w (frameRaster w line ++ rest) = .ok (.raster line, rest) := by
  obtain ⟨htake, hdrop⟩ := take_drop_fieldBytes_append line.length w.rlenWidth w.lenOrder (line ++ rest)
  have hlen : ¬ (fieldBytes line.length w.rlenWidth w.lenOrder ++ (line ++ rest)).length < w.rlenWidth := by simp
  have hbody : ¬ (line ++ rest).length < line.length := by simp
  simp only [decodeFrame, frameRaster, List.append_assoc, h.init_raster, h.print_raster, h.statreq_raster,
    h.media_raster, afterPrefix_append, if_neg hlen, htake, hdrop, fieldValue_fieldBytes_of_lt hline, if_neg hbody,
    List.take_left, List.drop_left]

end

theorem decode_frame_eq_ok_iff {w : Wire} {bs : List Byte} {i : Instr} :
    decode w (.frame bs) = .ok i ↔ decodeFrame w bs = .ok (i, []) := by
  rw [decode]
  split
  · rename_i j hj
    simp [hj]
  · rename_i j b rest hj
    simp [hj]
  · rename_i e he
    simp [he]

theorem decode_frame_of_decodeFrame {w : Wire} {f : List Byte} {i : Instr}
    (h : ∀ rest, decodeFrame w (f ++ rest) = .ok (i, rest)) : decode w (.frame f) = .ok i := by
  rw [decode_frame_eq_ok_iff, ← h [], List.append_nil]

/-- What the decoder reads as a frame is that frame's encoding, and the rest it leaves is what follows. -/
theorem encode_of_decodeFrame {w : Wire} {bs rest : List Byte} {i : Instr} (h : decodeFrame w bs = .ok (i, rest)) :
    ∃ f, encode w i = .frame f ∧ bs = f ++ rest := by
  unfold decodeFrame at h
  split at h
  next _ hpre => cases h; exact ⟨_, rfl, eq_append_of_afterPrefix hpre⟩
  next =>
  split at h
  next _ hpre => cases h; exact ⟨_, rfl, eq_append_of_afterPrefix hpre⟩
  next =>
  split at h
  next _ hpre => cases h; exact ⟨_, rfl, eq_append_of_afterPrefix hpre⟩
  next =>
  split at h
  next r hpre =>
    split at h
    next => cases h
    next id body =>
      split at h
      next => cases h
      next hlen =>
        cases h
        refine ⟨_, rfl, ?_⟩
        rw [frameMedia, fieldBytes_fieldValue_take (not_lt.1 hlen), List.append_assoc, List.cons_append,
          List.take_append_drop]
        exact eq_append_of_afterPrefix hpre
  next =>
  split at h
  next r hpre =>
    split at h
    next => cases h
    next hlen =>
      simp only [] at h
      split at h
      next => cases h
      next hbody =>
        cases h
        refine ⟨_, rfl, ?_⟩
        rw [frameRaster, List.length_take_of_le (not_lt.1 hbody), fieldBytes_fieldValue_take (not_lt.1 hlen),
          List.append_assoc, List.append_assoc, List.take_append_drop, List.take_append_drop]
        exact eq_append_of_afterPrefix hpre
  next => cases h

end Sys2Proof.Machine
end

section
/-! PROOFS. Decoding and encoding (30_encoding.md). -/

namespace Sys2Proof.Machine

/-- Settles O5: a control position and a `CTRL` value by evaluation, a frame by the lemma that reads it. -/
theorem decodeEncodeAgree : Obligations.DecodeEncodeAgree := by
  intro p i hleads hwf
  have hw := framesApart_of_distinctLeads hleads
  cases i with
  | scale | gamma | dither | pack | encode | tx | statreqOp | statusOp | start | cancel | clrBusy => rfl
  | init => exact decode_frame_of_decodeFrame decodeFrame_frameInit
  | media id n =>
    have hn : n < 256 ^ p.wire.lenWidth := by simpa [Instr.wellFormed, pow_mul] using hwf
    exact decode_frame_of_decodeFrame (decodeFrame_frameMedia hw id hn)
  | raster line =>
    have hlen : line.length = p.cfg.bytes := of_decide_eq_true hwf
    exact decode_frame_of_decodeFrame (decodeFrame_frameRaster hw (hlen ▸ (paramsCfg_fits_fields p).2))
  | print => exact decode_frame_of_decodeFrame (decodeFrame_framePrint hw)
  | statreq => exact decode_frame_of_decodeFrame (decodeFrame_frameStatreq hw)
  | status reply =>
    obtain ⟨hlen, hcheck⟩ : reply.length = p.wire.statusLen ∧ p.wire.statusCheck.holds reply = true := by
      simpa [Instr.wellFormed] using hwf
    simp [encode, decode, decodeReplyBytes, hlen, hcheck]

/-- Settles O6: what the decoder leaves after the frame is empty. -/
theorem frameHasOneEncoding : Obligations.FrameHasOneEncoding := by
  intro w bytes i h
  obtain ⟨f, hf, hbytes⟩ := encode_of_decodeFrame (decode_frame_eq_ok_iff.1 h)
  rw [hf, hbytes, List.append_nil]

/-- Settles O39: a byte of a field has 8 bits, so it is its number modulo 256. -/
theorem fieldsCarryTheirNumbers : Obligations.FieldsCarryTheirNumbers := by
  refine ⟨fun n width i hi => ?_,
    fun n width o => ⟨fieldBytes_length n width o, fun h => fieldValue_fieldBytes_of_lt h o⟩, paramsCfg_fits_fields⟩
  constructor <;>
    simp only [fieldBytes, List.getElem?_map, List.getElem?_range hi, Option.map_some, ofNat_mod_256]

/-- Settles O4: each word by evaluation. -/
theorem sampleWordsDecode : Obligations.SampleWordsDecode := by
  unfold Obligations.SampleWordsDecode
  decide

end Sys2Proof.Machine
end

section
/-! SUPPORT. A status reply under `WIRE_REF` (30_encoding.md R92, 45_protocol_decoder.md R193 to R198). -/

namespace Sys2Proof.Machine

theorem sixteen_le_toNat_iff (b : Byte) :
    16 ≤ b.toNat ↔ b.getLsbD 4 = true ∨ b.getLsbD 5 = true ∨ b.getLsbD 6 = true ∨ b.getLsbD 7 = true := by
  constructor
  · intro h
    obtain ⟨i, hi, hbit⟩ := Nat.exists_ge_and_testBit_of_ge_two_pow (n := 4) h
    have hlt : i < 8 := BitVec.lt_of_getLsbD hbit
    interval_cases i <;> simp_all [BitVec.getLsbD]
  · rintro (h | h | h | h)
    all_goals
      have := Nat.ge_two_pow_of_testBit h
      omega

theorem lookup_cons_eq_ite {β : Type} (k a : Byte) (b : β) (l : List (Byte × β)) :
    ((a, b) :: l).lookup k = if k = a then some b else l.lookup k := by
  by_cases h : k = a
  · rw [if_pos h, h, List.lookup_cons_self]
  · rw [if_neg h, List.lookup_cons, beq_false_of_ne h]

theorem typeOf_wireRef (t : Byte) :
    typeOf wireRef t = if t = 0 then .continuous else if t = 1 then .dieCut else .unknown := by
  simp only [typeOf, wireRef, lookup_cons_eq_ite, List.lookup_nil]
  split_ifs <;> rfl

theorem phaseOf_wireRef (b : Byte) :
    phaseOf wireRef b = (if b = 0 then .receiving else if b = 1 then .printing
      else if b = 2 then .cooling else .unrecognized, decide (3 ≤ b.toNat)) := by
  simp only [phaseOf, wireRef, lookup_cons_eq_ite, List.lookup_nil]
  split_ifs <;> simp_all
  bv_omega

theorem unknownErrBit_wireRef (reply : List Byte) :
    unknownErrBit wireRef reply = decide (16 ≤ (replyByte reply 3).toNat) := by
  rw [Bool.eq_iff_iff, decide_eq_true_iff, sixteen_le_toNat_iff]
  simp [unknownErrBit, errBit, wireRef, Wire.errMap, List.range_succ]

end Sys2Proof.Machine
end

section
/-! PROOFS. The fields of a status reply. -/

namespace Sys2Proof.Machine

/-- Settles O49: type, phase and unknown bits by the lemmas for `WIRE_REF`; the other fields are bytes and bits of it. -/
theorem referenceReplyFields : Obligations.ReferenceReplyFields := by
  intro magic width type err phase r5 r6 r7
  refine ⟨rfl, typeOf_wireRef type, rfl, rfl, rfl, rfl, ?_, congrArg Prod.fst (phaseOf_wireRef phase)⟩
  exact congrArg₂ or (unknownErrBit_wireRef _) (congrArg Prod.snd (phaseOf_wireRef phase))

end Sys2Proof.Machine
end

section
/-! PROOFS. What a step runs: the operation of the control position, the command of a `CTRL` write, the instruction of a
word placed where the next step runs it. -/

namespace Sys2Proof.Machine

/-! ## The core's turn and a write to `CTRL` -/

theorem step_of_decodePosition {s : State} {i : Instr} (he : s.nextEvent = .core) (hb : s.busy = true)
    (hc : s.ctl.cancelPend = false) (hi : decodePosition s.position = .ok i) : step s = exec i s.popEvent := by
  rw [step_of_nextEvent he]
  exact coreStep_of_not_cancelPend (s := s.popEvent) hb hc hi

theorem execAll_singleton (i : Instr) (s : State) : execAll [i] s = exec i s := by
  rw [execAll]
  cases exec i s <;> rfl

theorem decode_ctrl_eq_ok_iff {w : Wire} {v : Word} {i : Instr} :
    decode w (.ctrl v) = .ok i ↔ decodeCtrl v = [i] := by
  rw [decode]
  split
  next h => simp [h]
  next j h => simp [h]
  next hnil hone =>
    refine ⟨fun h => ?_, fun h => absurd h (hone i)⟩
    cases h

/-- Settles O8: the operation is the one that `decodePosition_position` names for the state's stage. -/
theorem stepRunsStageOperation : Obligations.StepRunsStageOperation := by
  intro s he hb hc
  have hpos := decodePosition_position s
  have hstage : s.ctl.jobState.busy = true := hb
  cases hj : s.ctl.jobState <;> simp only [hj, JobState.busy, Bool.false_eq_true] at hpos hstage
  all_goals
    refine ⟨_, hpos, step_of_decodePosition he hb hc hpos, ?_⟩
    simp +contextual

/-- Settles O9: a `CTRL` value of one command is a sequence of one instruction. -/
theorem stepRunsHostCommand : Obligations.StepRunsHostCommand := by
  intro s v i he hi
  rw [step_of_nextEvent he, perform, if_pos rfl, decode_ctrl_eq_ok_iff.1 hi, execAll_singleton]

/-! ## Placing a word (log entries 13, 15) -/

/-- What placing a word leaves as it is. -/
structure PlacedFrom (s u : State) : Prop where
  inputs : KeepsInputs s u
  res : u.res = s.res
  txLog : u.env.txLog = s.env.txLog
  calls : u.env.calls = s.env.calls

theorem PlacedFrom.rfl {s : State} : PlacedFrom s s :=
  ⟨⟨Eq.refl _, Eq.refl _, State.SameInputs.rfl.sameMemory, Eq.refl _, Eq.refl _⟩, Eq.refl _, Eq.refl _, Eq.refl _⟩

/-- Placing a word writes nothing but the control position, the buffers and LINK's next answers. -/
theorem placedFrom_update (s : State) (ctl : Control) (buf : Buffers) (answers : List ReadAnswer) :
    PlacedFrom s { s with ctl := ctl, buf := buf, env := { s.env with readAnswers := answers } } :=
  ⟨⟨rfl, rfl, ⟨fun _ => rfl, fun _ => rfl⟩, rfl, rfl⟩, rfl, rfl, rfl⟩

/-- Taking up a control position sets the control registers and schedules a core step, which the next step takes off
the schedule again. -/
theorem PlacedFrom.atPosition {s r : State} (h : PlacedFrom s r) (j : JobState) (aw : Bool) :
    PlacedFrom s (r.atPosition j aw).popEvent where
  inputs := ⟨h.inputs.params, h.inputs.job, h.inputs.memory, h.inputs.schedule, h.inputs.hostRd⟩
  res := h.res
  txLog := h.txLog
  calls := h.calls

theorem PlacedFrom.withFrame (s : State) : PlacedFrom s s.withFrame := by
  unfold State.withFrame
  split
  · exact .rfl
  · exact placedFrom_update s _ _ s.env.readAnswers

/-- A state at the control position of a busy stage runs the operation of that position. -/
theorem step_atPosition {j : JobState} {aw : Bool} {i : Instr} (hj : j.busy = true)
    (hi : decodePosition (j.code ++ BitVec.ofBool aw) = .ok i) (s : State) :
    step (s.atPosition j aw) = exec i (s.atPosition j aw).popEvent :=
  step_of_decodePosition rfl hj rfl hi

/-- A control position that selects an operation is the one of a busy stage and its `AW_SUB`. -/
theorem position_of_decodePosition : ∀ cp : BitVec 5, (decodePosition cp).toBool = true →
    let j := (jobStateOfCode (cp.extractLsb' 1 4).toNat).getD .idle
    j.busy = true ∧ j.code ++ BitVec.ofBool (cp.getLsbD 0) = cp := by
  decide

theorem step_place_position {cp : BitVec 5} {i : Instr} (h : decodePosition cp = .ok i) (s : State) :
    ∃ u, step (s.place (.position cp)) = exec i u ∧ PlacedFrom s u := by
  obtain ⟨hbusy, hcp⟩ := position_of_decodePosition cp (by rw [h]; rfl)
  refine ⟨_, step_atPosition hbusy (by rw [hcp, h]) _, ?_⟩
  split
  · exact (PlacedFrom.withFrame s).atPosition _ _
  · exact PlacedFrom.rfl.atPosition _ _

theorem step_place_ctrl {v : Word} {i : Instr} (s : State) (h : decode s.params.wire (.ctrl v) = .ok i) :
    step (s.place (.ctrl v)) = exec i s :=
  stepRunsHostCommand (s.place (.ctrl v)) v i rfl h

/-- A command frame other than the StatusRequest frame means its transmission by `TX` (log entry 11). -/
theorem exec_tx_of_encode_frame {s : State} {i : Instr} {f : List Byte}
    (hf : s.buf.txq[s.ctl.frameIdx.toNat]? = some f) (h : encode s.params.wire i = .frame f) (hi : i ≠ .statreq) :
    exec .tx s = exec i s := by
  rw [exec_tx_of_frame hf]
  cases i <;> cases h
  case statreq => exact absurd rfl hi
  all_goals rfl

theorem step_place_frame {bs : List Byte} {i : Instr} {s : State} (hw : s.params.wire = wireRef)
    (h : decode wireRef (.frame bs) = .ok i) :
    ∃ u, step (s.place (.frame bs)) = exec i u ∧ PlacedFrom s u := by
  rw [State.place]
  split
  next hbs =>
    have hstatreq : decode wireRef (.frame (frameStatreq wireRef)) = .ok .statreq :=
      decodeEncodeAgree Params.ref .statreq rfl rfl
    rw [hbs, hw, hstatreq] at h
    cases h
    exact ⟨_, step_atPosition (i := .statreqOp) rfl rfl s,
      PlacedFrom.rfl.atPosition _ _⟩
  next hbs =>
    have henc : encode s.params.wire i = .frame bs := hw ▸ frameHasOneEncoding wireRef bs i h
    have hi : i ≠ .statreq := by
      rintro rfl
      cases henc
      exact hbs rfl
    exact ⟨_, (step_atPosition rfl (decodePosition_position (s.atPosition .transferring s.ctl.awSub)) _).trans
      (exec_tx_of_encode_frame rfl henc hi), (placedFrom_update s _ _ s.env.readAnswers).atPosition _ _⟩

theorem exec_statusOp_of_reply {s : State} {reply : List Byte} {answers : List ReadAnswer}
    (h : s.env.readAnswers = .ok reply :: answers) : exec .statusOp s = exec (.status reply) s := by
  have hread : s.nextRead s.params.wire.statusLen = .ok (reply.take s.params.wire.statusLen) := by
    simp only [State.nextRead, h]
  simp only [exec, execStatusOp, execStatus, State.readStatus, hread]

theorem step_place_reply (reply : List Byte) (s : State) :
    ∃ u, step (s.place (.reply reply)) = exec (.status reply) u ∧ PlacedFrom s u :=
  ⟨_, (step_atPosition (i := .statusOp) rfl rfl _).trans (exec_statusOp_of_reply rfl),
    (placedFrom_update s s.ctl s.buf _).atPosition _ _⟩

theorem decode_reply_eq_ok {w : Wire} {reply : List Byte} {i : Instr} (h : decode w (.reply reply) = .ok i) :
    i = .status reply := by
  simp only [decode, decodeReplyBytes] at h
  split at h
  · cases h
  · split at h <;> cases h
    rfl

theorem step_place {enc : Encoding} {i : Instr} {s : State} (hw : s.params.wire = wireRef)
    (h : decode wireRef enc = .ok i) : ∃ u, step (s.place enc) = exec i u ∧ PlacedFrom s u := by
  cases enc with
  | position cp => exact step_place_position h s
  | ctrl v => exact ⟨s, step_place_ctrl s h, .rfl⟩
  | frame bs => exact step_place_frame hw h
  | reply reply =>
    obtain rfl := decode_reply_eq_ok h
    exact step_place_reply reply s

theorem decode_tableEncoding {nbits w : Nat} {i : Instr} (h : decodeTableWord nbits w = some i) :
    decode wireRef (tableEncoding nbits w) = .ok i := by
  unfold decodeTableWord at h
  split at h
  · cases h
  · split at h <;> cases h
    assumption

/-- Settles O7: by the kind of encoding the word is. -/
theorem placedWordRuns : Obligations.PlacedWordRuns := by
  intro s nbits w i hw h
  obtain ⟨u, hu, hkeep⟩ := step_place hw (decode_tableEncoding h)
  exact ⟨u, hu, hkeep.inputs, hkeep.res, hkeep.txLog, hkeep.calls⟩

end Sys2Proof.Machine
end

section
/-! SUPPORT. The arithmetic of SCALE: rounding (00_scope.md R11), and the overlaps of source and output cells
(40_scaler.md R119). -/

namespace Sys2Proof.Machine

/-! ## Rounding to nearest -/

theorem rhu_mono {m n : Nat} (d : Nat) (h : m ≤ n) : rhu m d ≤ rhu n d :=
  Nat.div_le_div_right (by omega)

theorem rhu_mul_self {d : Nat} (q : Nat) (hd : 0 < d) : rhu (q * d) d = q := by
  have h : 2 * (q * d) + d = d + 2 * d * q := by ring
  rw [rhu, h, Nat.add_mul_div_left _ _ (by omega), Nat.div_eq_of_lt (by omega), Nat.zero_add]

/-- A number between two multiples of the divisor is rounded to between the two factors. -/
theorem rhu_between {lo hi n d : Nat} (hd : 0 < d) (hlo : lo * d ≤ n) (hhi : n ≤ hi * d) :
    lo ≤ rhu n d ∧ rhu n d ≤ hi :=
  ⟨rhu_mul_self lo hd ▸ rhu_mono d hlo, rhu_mul_self hi hd ▸ rhu_mono d hhi⟩

/-- Rounding is up by at most one half. -/
theorem two_mul_rhu_mul_le (n d : Nat) : 2 * (rhu n d * d) ≤ 2 * n + d := by
  have h := Nat.mul_div_le (2 * n + d) (2 * d)
  rwa [Nat.mul_assoc, Nat.mul_comm d] at h

/-- Rounding is down by less than one half. -/
theorem lt_two_mul_rhu_mul {d : Nat} (n : Nat) (hd : 0 < d) : 2 * n < 2 * (rhu n d * d) + d := by
  have h := Nat.lt_mul_div_succ (2 * n + d) (show 0 < 2 * d by omega)
  rw [Nat.mul_add_one, Nat.mul_assoc, Nat.mul_comm d] at h
  change _ < 2 * (rhu n d * d) + 2 * d at h
  omega

/-- Under `pad` the inner width fits the target width by rounding alone: an oversized image is too tall for its width
(40_scaler.md R118). -/
theorem rhu_le_width_of_oversized {c : Cfg} {w h : Nat} (hw : 0 < w) (hh : 0 < h)
    (hc : c.maxLines < computedHeight c w h) : rhu (w * c.maxLines) h ≤ c.width := by
  have hratio : c.maxLines * w < h * c.width := by
    by_contra hle
    have hrow := rhu_mono w (Nat.not_lt.1 hle)
    rw [rhu_mul_self _ hw] at hrow
    exact absurd hc hrow.not_gt
  rw [← rhu_mul_self c.width hh, Nat.mul_comm w, Nat.mul_comm c.width h]
  exact rhu_mono h hratio.le

theorem padInnerWidth_bounds (c : Cfg) (w h : Nat) (hc : 1 ≤ c.width) :
    1 ≤ padInnerWidth c w h ∧ padInnerWidth c w h ≤ c.width := by
  unfold padInnerWidth
  omega

/-! ## Overlaps -/

/-- The overlaps of one output cell with the first `m` source cells make up what those cells cover of it. -/
theorem sum_overlap_range (n no o m : Nat) :
    ∑ i ∈ Finset.range m, overlap i o n no = min (m * no) ((o + 1) * n) - o * n := by
  induction m with
  | zero => simp
  | succ m ih =>
    rw [Finset.sum_range_succ, ih, overlap, Nat.add_one_mul m, Nat.add_one_mul o]
    omega

theorem sum_overlap {n no o : Nat} (ho : o < no) : ∑ i ∈ Finset.range n, overlap i o n no = n := by
  have hcover : (o + 1) * n ≤ n * no := Nat.mul_comm n no ▸ Nat.mul_le_mul_right n ho
  rw [sum_overlap_range, min_eq_right hcover, Nat.add_one_mul, Nat.add_sub_cancel_left]

theorem overlap_mul_left (c i o n no : Nat) : overlap i o (c * n) (c * no) = c * overlap i o n no := by
  simp only [overlap, Nat.mul_left_comm _ c, Nat.mul_min_mul_left, Nat.mul_max_mul_left, Nat.mul_sub]

/-- Scaling an axis up by a whole factor puts each output cell inside one source cell. -/
theorem overlap_replicate {a : Nat} (i X w : Nat) (ha : 0 < a) :
    overlap i X w (a * w) = if i = X / a then w else 0 := by
  have hunit : overlap i X 1 a = if i = X / a then 1 else 0 := by
    have hdiv : i = X / a ↔ i * a ≤ X ∧ X < i * a + a := by
      rw [eq_comm, Nat.div_eq_iff ha]
      omega
    rw [overlap, Nat.add_one_mul]
    split <;> omega
  have h := overlap_mul_left w i X 1 a
  rw [Nat.mul_one, Nat.mul_comm w a, hunit] at h
  rw [h, mul_ite, Nat.mul_one, Nat.mul_zero]

/-- Along an axis scaled up by a whole factor an output cell takes all its weight from one source cell. -/
theorem sum_mul_overlap_replicate (f : Nat → Nat) {a w X : Nat} (ha : 0 < a) (hX : X < a * w) :
    ∑ x ∈ Finset.range w, f x * overlap x X w (a * w) = f (X / a) * w := by
  have hx : X / a ∈ Finset.range w := Finset.mem_range.2 (Nat.div_lt_of_lt_mul hX)
  rw [Finset.sum_eq_single_of_mem _ hx fun x _ hne => by rw [overlap_replicate _ _ _ ha, if_neg hne, Nat.mul_zero],
    overlap_replicate _ _ _ ha, if_pos rfl]

/-! ## The area average -/

/-- `Resample` with its two sums as they stand in 40_scaler.md R119. -/
theorem resample_eq_rhu_sum (src : Nat → Nat → Nat) (w h wo ho Y X : Nat) :
    resample src w h wo ho Y X =
      rhu (∑ y ∈ Finset.range h, ∑ x ∈ Finset.range w, src y x * overlap x X w wo * overlap y Y h ho) (w * h) := by
  simp only [resample, sumTo_eq_sum]

/-- The weights of one output sample sum to the number of units of the source (40_scaler.md R119). -/
theorem sum_weights (v : Nat) {w h wo ho X Y : Nat} (hX : X < wo) (hY : Y < ho) :
    ∑ y ∈ Finset.range h, ∑ x ∈ Finset.range w, v * overlap x X w wo * overlap y Y h ho = v * (w * h) := by
  simp only [← Finset.sum_mul, ← Finset.mul_sum, sum_overlap hX, sum_overlap hY, Nat.mul_assoc]

theorem resample_between {src : Nat → Nat → Nat} {lo hi w h wo ho X Y : Nat} (hw : 0 < w) (hh : 0 < h)
    (hX : X < wo) (hY : Y < ho) (hsrc : ∀ y x, y < h → x < w → lo ≤ src y x ∧ src y x ≤ hi) :
    lo ≤ resample src w h wo ho Y X ∧ resample src w h wo ho Y X ≤ hi := by
  rw [resample_eq_rhu_sum]
  refine rhu_between (Nat.mul_pos hw hh) ?_ ?_
  all_goals
    rw [← sum_weights _ hX hY]
    refine Finset.sum_le_sum fun y hy => Finset.sum_le_sum fun x hx => ?_
    obtain ⟨hlo, hhi⟩ := hsrc y x (Finset.mem_range.1 hy) (Finset.mem_range.1 hx)
    gcongr

end Sys2Proof.Machine
end

section
/-! PROOFS. The statements about the arithmetic of SCALE (40_scaler.md R117 to R119, R122, R123). -/

namespace Sys2Proof.Machine

/-- Settles O24: what the source cells cover of an output cell is all of it. -/
theorem overlapsSumToSource : Obligations.OverlapsSumToSource :=
  fun _ _ _ _ ho => sum_overlap ho

/-- Settles O25: the weights sum to the divisor, so the average lies between the bounds. -/
theorem resampleKeepsRange : Obligations.ResampleKeepsRange :=
  fun _ _ _ _ _ _ _ _ _ hw hh hX hY hsrc => resample_between hw hh hX hY hsrc

/-- Settles O26: of the overlaps of an output cell one in each axis is not 0. -/
theorem resampleReplicates : Obligations.ResampleReplicates := by
  intro src w h a b X Y ha hb hX hY
  rw [resample_eq_rhu_sum]
  simp only [← Finset.sum_mul, sum_mul_overlap_replicate _ ha hX]
  rw [sum_mul_overlap_replicate (fun y => src y (X / a) * w) hb hY, Nat.mul_assoc]
  exact rhu_mul_self _ (Nat.mul_pos (Nat.pos_of_lt_mul_left hX) (Nat.pos_of_lt_mul_left hY))

/-- Settles O27: both are rounded to nearest, and for an oversized image the bound `W` of the inner width never cuts. -/
theorem aspectRatioPreserved : Obligations.AspectRatioPreserved := by
  intro c w h hc hw hh hrows wi
  have hwidth : 1 ≤ c.width := by
    simp only [Cfg.check, Bool.and_eq_true, decide_eq_true_eq] at hc
    omega
  have hdown : 2 * (h * c.width) < 2 * (hrows * w) + w := lt_two_mul_rhu_mul _ hw
  obtain ⟨hpos, hfits⟩ := padInnerWidth_bounds c w h hwidth
  refine ⟨hdown.le, two_mul_rhu_mul_le _ _, fun hzero => by simpa [hzero] using hdown, hpos, hfits, fun hover => ?_⟩
  have hround := rhu_le_width_of_oversized hw hh hover
  have hwi : wi = 1 ∨ wi = rhu (w * c.maxLines) h := by
    change padInnerWidth c w h = 1 ∨ padInnerWidth c w h = _
    unfold padInnerWidth
    omega
  refine hwi.imp_right fun hwi => ?_
  rw [hwi]
  exact ⟨(lt_two_mul_rhu_mul _ hh).le, two_mul_rhu_mul_le _ _⟩

end Sys2Proof.Machine
end

section
/-! SUPPORT. What SCALE writes: the geometry, the cells of `SCALED`, and that no rendered sample exceeds 8 bits
(40_scaler.md R115, R118 to R121). -/

namespace Sys2Proof.Machine

/-! ## The geometry -/

/-- The height of the rendered image of a non-empty image that is not rejected (40_scaler.md R118, R120). -/
def fittedHeight (c : Cfg) (w h : Nat) : Nat :=
  if computedHeight c w h ≤ c.maxLines then max 1 (computedHeight c w h) else c.maxLines

/-- `Hc` with the product in the order of the statements (40_scaler.md R117). -/
theorem computedHeight_eq (c : Cfg) (w h : Nat) : computedHeight c w h = (2 * h * c.width + w) / (2 * w) := by
  rw [computedHeight, rhu, Nat.mul_assoc]

theorem chooseGeometry_rejectOversized {c : Cfg} {w h : Nat} (hover : c.maxLines < computedHeight c w h) :
    chooseGeometry c .rejectOversized w h = .error .imageTooLarge := if_pos hover

/-! ## The samples -/

/-- The sample of channel `k` of pixel (X, Y) in the image that `SCALE` renders, as 40_scaler.md R118 to R120 give it
from the fit mode. -/
def State.fittedSample (s : State) (k Y X : Nat) : Nat :=
  let c := s.params.cfg
  let hc := computedHeight c s.job.imgWidth.toNat s.job.imgHeight.toNat
  let wi := padInnerWidth c s.job.imgWidth.toNat s.job.imgHeight.toNat
  let off := (c.width - wi) / 2
  if hc ≤ c.maxLines then s.areaMean k c.width (max 1 hc) X Y
  else if s.job.fitMode = .crop then s.areaMean k c.width hc X Y
  else if off ≤ X ∧ X < off + wi then s.areaMean k wi c.maxLines (X - off) Y
  else 255

/-- The area average written out in 40_scaler.md R119 is the one SCALE computes. -/
theorem State.resample_source (s : State) (k wo ho X Y : Nat) :
    resample (s.source k) s.job.imgWidth.toNat s.job.imgHeight.toNat wo ho Y X = s.areaMean k wo ho X Y :=
  resample_eq_rhu_sum _ _ _ _ _ _ _

/-- An image that is not rejected has a geometry, whose height and samples are those of its fit mode (40_scaler.md
R115, R118, R120). -/
theorem State.exists_geometry {s : State}
    (hok : computedHeight s.params.cfg s.job.imgWidth.toNat s.job.imgHeight.toNat ≤ s.params.cfg.maxLines
      ∨ s.job.fitMode ≠ .rejectOversized) :
    ∃ g, chooseGeometry s.params.cfg s.job.fitMode s.job.imgWidth.toNat s.job.imgHeight.toNat = .ok g
      ∧ g.height s.params.cfg = fittedHeight s.params.cfg s.job.imgWidth.toNat s.job.imgHeight.toNat
      ∧ ∀ k Y X, renderSample s.params.cfg g (s.source k) s.job.imgWidth.toNat s.job.imgHeight.toNat Y X
          = s.fittedSample k Y X := by
  simp only [chooseGeometry, fittedHeight, State.fittedSample]
  split
  next hover =>
    simp only [Nat.not_le.2 hover, if_false]
    cases hfit : s.job.fitMode with
    | rejectOversized => exact absurd hfit (hok.resolve_left (Nat.not_le.2 hover))
    | crop => exact ⟨_, rfl, rfl, fun k Y X => s.resample_source k _ _ X Y⟩
    | pad =>
      refine ⟨_, rfl, rfl, fun k Y X => ?_⟩
      simp only [renderSample, State.resample_source, reduceCtorEq, if_false]
  next hfits =>
    simp only [Nat.not_lt.1 hfits, if_true]
    exact ⟨_, rfl, rfl, fun k Y X => s.resample_source k _ _ X Y⟩

theorem State.areaMean_le {s : State} {k wo ho X Y : Nat} (hw : 0 < s.job.imgWidth.toNat)
    (hh : 0 < s.job.imgHeight.toNat) (hX : X < wo) (hY : Y < ho) : s.areaMean k wo ho X Y ≤ 255 := by
  rw [← State.resample_source]
  exact (resample_between hw hh hX hY fun y x _ _ => ⟨Nat.zero_le _, Nat.le_of_lt_succ (s.imgCell _).isLt⟩).2

/-- Every sample inside the rendered image fits its cell. -/
theorem State.fittedSample_le {s : State} {k Y X : Nat} (hw : 0 < s.job.imgWidth.toNat)
    (hh : 0 < s.job.imgHeight.toNat) (hX : X < s.params.cfg.width)
    (hY : Y < fittedHeight s.params.cfg s.job.imgWidth.toNat s.job.imgHeight.toNat) :
    s.fittedSample k Y X ≤ 255 := by
  unfold State.fittedSample
  unfold fittedHeight at hY
  dsimp only
  split at hY
  next hfits =>
    rw [if_pos hfits]
    exact State.areaMean_le hw hh hX hY
  next hover =>
    rw [if_neg hover]
    split
    · exact State.areaMean_le hw hh hX (by omega)
    · split
      · exact State.areaMean_le hw hh (by omega) hY
      · exact le_rfl

theorem cellIndex_lt {w c x y k rows : Nat} (hy : y < rows) (hx : x < w) (hk : k < c) :
    cellIndex w c x y k < rows * w * c := by
  have hpixel : w * y + x < rows * w := Nat.mul_add_lt_mul_of_lt_of_lt hy hx
  rw [cellIndex, Nat.mul_comm _ c, Nat.mul_comm y]
  exact Nat.mul_add_lt_mul_of_lt_of_lt hpixel hk

theorem cellIndex_div {w c k : Nat} (x y : Nat) (hk : k < c) : cellIndex w c x y k / c = y * w + x := by
  rw [cellIndex, Nat.mul_comm _ c, Nat.mul_add_div (by omega), Nat.div_eq_of_lt hk, Nat.add_zero]

theorem cellIndex_mod {w c k : Nat} (x y : Nat) (hk : k < c) : cellIndex w c x y k % c = k := by
  rw [cellIndex, Nat.mul_add_mod', Nat.mod_eq_of_lt hk]

/-- The cell of pixel (X, Y), channel `k`, holds the low 8 bits of its rendered sample (20_memory.md R62). -/
theorem State.render_getD {s : State} {g : Geometry} {X Y k : Nat} (hY : Y < g.height s.params.cfg)
    (hX : X < s.params.cfg.width) (hk : k < s.job.channels) :
    ((s.render g).getD (cellIndex s.params.cfg.width s.job.channels X Y k) 0).toNat =
      renderSample s.params.cfg g (s.source k) s.job.imgWidth.toNat s.job.imgHeight.toNat Y X % 256 := by
  have hrow : (Y * s.params.cfg.width + X) / s.params.cfg.width = Y := by
    rw [Nat.mul_comm, Nat.mul_add_div (by omega), Nat.div_eq_of_lt hX, Nat.add_zero]
  have hcolumn : (Y * s.params.cfg.width + X) % s.params.cfg.width = X := by
    rw [Nat.mul_add_mod', Nat.mod_eq_of_lt hX]
  rw [State.render, List.getD_eq_getElem?_getD, List.getElem?_map, List.getElem?_range (cellIndex_lt hY hX hk)]
  simp only [Option.map_some, Option.getD_some, BitVec.toNat_ofNat, cellIndex_div X Y hk, cellIndex_mod X Y hk, hrow,
    hcolumn]

/-! ## SCALE, by its outcome -/

theorem State.scale_of_empty {s : State} (h : s.job.imgWidth.toNat = 0 ∨ s.job.imgHeight.toNat = 0) :
    s.scale = s.abort .emptyImage :=
  if_pos (h.imp BitVec.eq_of_toNat_eq BitVec.eq_of_toNat_eq)

theorem State.image_nonempty {s : State} (hw : 0 < s.job.imgWidth.toNat) (hh : 0 < s.job.imgHeight.toNat) :
    ¬(s.job.imgWidth = 0 ∨ s.job.imgHeight = 0) := by
  rintro (h | h)
  · simp [h] at hw
  · simp [h] at hh

theorem State.scale_of_geometry {s : State} {g : Geometry} (hw : 0 < s.job.imgWidth.toNat)
    (hh : 0 < s.job.imgHeight.toNat)
    (hg : chooseGeometry s.params.cfg s.job.fitMode s.job.imgWidth.toNat s.job.imgHeight.toNat = .ok g) :
    s.scale = { s with
      buf := { s.buf with scaled := s.render g }
      res := { s.res with outHeight := BitVec.ofNat 16 (g.height s.params.cfg) }
      ctl := { s.ctl with jobState := .correctingGamma } } := by
  rw [State.scale, if_neg (State.image_nonempty hw hh), hg]

theorem State.scale_of_rejected {s : State} {e : PrintError} (hw : 0 < s.job.imgWidth.toNat)
    (hh : 0 < s.job.imgHeight.toNat)
    (he : chooseGeometry s.params.cfg s.job.fitMode s.job.imgWidth.toNat s.job.imgHeight.toNat = .error e) :
    s.scale = s.abort e := by
  rw [State.scale, if_neg (State.image_nonempty hw hh), he]

/-! ## A job that ends in an error with nothing sent (60_exceptions.md R246) -/

theorem State.abort_failedWith (s : State) (e : PrintError) : FailedWith s (s.abort e) e.code e.info where
  ctl := by simp
  errCode := by simp
  errStage := by simp
  errInfo := by simp
  outHeight := by simp
  nLines := by simp
  inputs := ⟨by simp, by simp, (State.sameInputs_abort e s).sameMemory, by simp, by simp⟩

theorem State.abort_sameStatus (s : State) (e : PrintError) : SameStatus s (s.abort e) := by
  simp [SameStatus]

/-- An error that needs no reset frame is raised without a call on LINK. -/
theorem State.abort_nothingSent {s : State} {e : PrintError}
    (h : needsReset s.params.cfg e s.ctl.jobState = false) : NothingSent s (s.abort e) := by
  simp [NothingSent, h]

end Sys2Proof.Machine
end

section
/-! PROOFS. `SCALE` renders the image, or ends the job with nothing written and nothing sent (40_scaler.md R115 to
R121). -/

namespace Sys2Proof.Machine

/-- Settles O23: the geometry chosen has the height and the samples of the fit mode, and each sample fits its cell. -/
theorem scaleRendersImage : Obligations.ScaleRendersImage := by
  intro s c w h ch hc wi off hw hh hok
  have hcomputed : computedHeight c w h = hc := computedHeight_eq c w h
  obtain ⟨g, hg, hheight, hsample⟩ := State.exists_geometry (hcomputed ▸ hok)
  obtain ⟨-, -, -, -, hmax, hmax16⟩ := paramsCfg_bounds s.params
  obtain ⟨hlo, hhi⟩ := chooseGeometry_height hmax hg
  have hscale := State.scale_of_geometry hw hh hg
  have hout : s.scale.res.outHeight.toNat = g.height c := by
    rw [hscale, BitVec.toNat_ofNat]
    exact Nat.mod_eq_of_lt (by omega)
  have hscaled : s.scale.buf.scaled = s.render g := by rw [hscale]
  refine ⟨s.scale, rfl, ?_, hout ▸ hlo, hout ▸ hhi, ?_, ?_, ?_, (State.sameInputs_scale s).sameMemory⟩
  · rw [hout, hheight, fittedHeight, hcomputed]
  · rw [hout, hscaled, State.render_length]
    rfl
  · intro Y X k hY hX hk
    rw [hout] at hY
    have hfit := State.fittedSample_le hw hh hX (hheight ▸ hY) (k := k)
    rw [hscaled]
    refine (State.render_getD hY hX hk).trans ?_
    rw [hsample, Nat.mod_eq_of_lt (Nat.lt_succ_of_le hfit), State.fittedSample, hcomputed]
    rfl
  · rw [hscale]

/-- Settles O21: `EmptyImage` needs no reset frame. -/
theorem scaleRejectsEmptyImage : Obligations.ScaleRejectsEmptyImage := by
  intro s hstage hempty
  refine ⟨s.scale, rfl, ?_⟩
  rw [State.scale_of_empty hempty]
  refine ⟨s.abort_failedWith .emptyImage, ?_, s.abort_sameStatus _, State.abort_nothingSent rfl⟩
  simp [State.readRegister, State.errWord, hstage, PrintError.code, JobState.code]

/-- Settles O22: an oversized image has no geometry under `reject-oversized`, and `ImageTooLarge` needs no reset
frame. -/
theorem scaleRejectsOversized : Obligations.ScaleRejectsOversized := by
  intro s hw hh hover hfit
  rw [← computedHeight_eq] at hover
  refine ⟨s.scale, rfl, ?_⟩
  rw [State.scale_of_rejected hw hh (hfit ▸ chooseGeometry_rejectOversized hover)]
  exact ⟨s.abort_failedWith .imageTooLarge, s.abort_sameStatus _, State.abort_nothingSent rfl⟩

end Sys2Proof.Machine
end

section
/-! SUPPORT. The arithmetic of GAMMA: the luminance, the luminance image pixel by pixel, and the host's table
(41_gamma.md R131, R133 to R135). -/

namespace Sys2Proof.Machine

/-! ## The luminance -/

/-- The weights sum to 1000, so the luminance fits its cell. -/
theorem luma_toNat (r g b : Byte) :
    (luma r g b).toNat = (299 * r.toNat + 587 * g.toNat + 114 * b.toNat + 500) / 1000 := by
  rw [luma, BitVec.toNat_ofNat]
  omega

theorem luma_self (r : Byte) : luma r r r = r := by
  apply BitVec.eq_of_toNat_eq
  rw [luma_toNat]
  omega

/-- The luminance image has, for pixel `i`, the luminance of the samples `3i`, `3i + 1` and `3i + 2`. -/
theorem lumaCells_getD {i : Nat} {cells : List Byte} (h : i * 3 + 2 < cells.length) :
    (lumaCells cells).getD i 0 =
      luma (cells.getD (i * 3) 0) (cells.getD (i * 3 + 1) 0) (cells.getD (i * 3 + 2) 0) := by
  induction i generalizing cells with
  | zero =>
    match cells, h with
    | _ :: _ :: _ :: _, _ => rfl
  | succ i ih =>
    match cells, h with
    | _ :: _ :: _ :: rest, h =>
      rw [List.length_cons, List.length_cons, List.length_cons] at h
      rw [Nat.succ_mul]
      exact ih (by omega)

/-- The luminance of pixel `i`, as a number. -/
theorem luminances_getD_toNat {rgb : Bool} {n i : Nat} {cells : List Byte}
    (h : cells.length = n * (if rgb then 3 else 1)) (hi : i < n) :
    ((luminances rgb cells).getD i 0).toNat =
      if rgb then (299 * (cells.getD (i * 3) 0).toNat + 587 * (cells.getD (i * 3 + 1) 0).toNat
          + 114 * (cells.getD (i * 3 + 2) 0).toNat + 500) / 1000
      else (cells.getD i 0).toNat := by
  cases rgb with
  | false => rfl
  | true =>
    rw [if_pos rfl] at h
    rw [if_pos rfl, luminances, if_pos rfl, lumaCells_getD (by omega), luma_toNat]

/-! ## The image that GAMMA writes -/

@[simp] theorem State.gamma_gray_length (s : State) :
    s.gamma.buf.gray.length = s.res.outHeight.toNat * s.params.cfg.width := by
  rw [State.gamma, List.length_map]
  exact luminances_length (viewCells_length ..)

/-- Where `SCALED` is held, `GRAY` is its luminance image through the table. -/
theorem State.gamma_gray {s : State}
    (h : s.buf.scaled.length = s.res.outHeight.toNat * s.params.cfg.width * s.job.channels) :
    s.gamma.buf.gray = (luminances s.job.rgb s.buf.scaled).map fun y => s.lutCell y.toNat := by
  rw [State.gamma, State.scaledCells, viewCells_of_le h.ge, List.take_of_length_le h.le]

/-- Each cell of `GRAY` is the table entry of the luminance at its place. -/
theorem State.gamma_gray_getD {s : State} {i : Nat}
    (h : s.buf.scaled.length = s.res.outHeight.toNat * s.params.cfg.width * s.job.channels)
    (hi : i < s.res.outHeight.toNat * s.params.cfg.width) :
    s.gamma.buf.gray.getD i 0 = s.lutCell ((luminances s.job.rgb s.buf.scaled).getD i 0).toNat := by
  have hlength := luminances_length h
  rw [State.gamma_gray h, List.getD_eq_getElem _ _ (by rwa [List.length_map, hlength]), List.getElem_map,
    List.getD_eq_getElem _ _ (by rwa [hlength])]

/-! ## The host's table -/

theorem floor_natCast_add_half (n : ℕ) : ⌊(n : ℝ) + 1 / 2⌋₊ = n := by
  rw [Nat.floor_eq_iff (by positivity)]
  constructor <;> linarith

theorem gammaLut_zero {γ : ℝ} (hγ : 0 < γ) : gammaLut γ 0 = 0 := by
  have hpow : ((0 : ℕ) / 255 : ℝ) ^ (1 / γ) = 0 := by
    rw [Nat.cast_zero, zero_div, Real.zero_rpow (one_div_ne_zero hγ.ne')]
  rw [gammaLut, hpow, mul_zero]
  exact_mod_cast floor_natCast_add_half 0

theorem gammaLut_last (γ : ℝ) : gammaLut γ 255 = 255 := by
  have hpow : ((255 : ℕ) / 255 : ℝ) ^ (1 / γ) = 1 := by
    rw [Nat.cast_ofNat, div_self (by norm_num), Real.one_rpow]
  rw [gammaLut, hpow, mul_one]
  exact_mod_cast floor_natCast_add_half 255

theorem gammaLut_one (i : ℕ) : gammaLut 1 i = i := by
  rw [gammaLut, one_div_one, Real.rpow_one, mul_div_cancel₀ _ (by norm_num : (255 : ℝ) ≠ 0),
    floor_natCast_add_half]

/-- A power with a positive exponent is monotone, and so is rounding. -/
theorem gammaLut_mono {γ : ℝ} (hγ : 0 < γ) : Monotone (gammaLut γ) := by
  intro i j hij
  unfold gammaLut
  gcongr

end Sys2Proof.Machine
end

section
/-! PROOFS. The statements about GAMMA (41_gamma.md R130 to R135). -/

namespace Sys2Proof.Machine

/-- Settles O29: the luminance is a quotient that fits its cell, and 500 in the dividend rounds it to nearest. -/
theorem lumaRoundsToNearest : Obligations.LumaRoundsToNearest := by
  intro r g b weighted
  rw [luma_toNat]
  exact ⟨by omega, by omega, luma_self r⟩

/-- Settles O28: a held `SCALED` shows no free value, so each cell of `GRAY` comes from the samples of its own pixel. -/
theorem gammaReplacesSamples : Obligations.GammaReplacesSamples := by
  intro s w h ch
  have hnext : exec .gamma s = .next s.gamma := rfl
  refine ⟨s.gamma, hnext, s.gamma_gray_length, ?_, rfl, (exec_sameInputs hnext).sameMemory⟩
  intro hheld x y hx hy sample
  have hpixel : y * w + x < h * w := Nat.mul_comm y w ▸ Nat.mul_add_lt_mul_of_lt_of_lt hy hx
  rw [State.gamma_gray_getD hheld hpixel, luminances_getD_toNat hheld hpixel]
  cases hrgb : s.job.rgb <;> simp [sample, ch, hrgb]

/-- Settles O30: the table is the rounding of a monotone function that fixes both ends, and with one channel `GAMMA` is
that table cell by cell. -/
theorem gammaTableProperties : Obligations.GammaTableProperties := by
  intro γ hγ
  refine ⟨gammaLut_zero hγ, gammaLut_last γ, fun i _ => gammaLut_one i, fun _ _ hij => gammaLut_mono hγ hij, ?_⟩
  rintro s t ⟨-, htable⟩ hgrey hlength hexec
  obtain rfl : s.gamma = t := by injection hexec
  have hheld : s.buf.scaled.length = s.res.outHeight.toNat * s.params.cfg.width * s.job.channels := by
    simp [Job.channels, hgrey, hlength]
  have hluminances : luminances s.job.rgb s.buf.scaled = s.buf.scaled := by simp [luminances, hgrey]
  refine ⟨fun i j hi hj hdarker => ?_, fun hone => ?_⟩
  · rw [hlength] at hi hj
    rw [State.gamma_gray_getD hheld hi, State.gamma_gray_getD hheld hj, hluminances,
      htable _ (BitVec.isLt _), htable _ (BitVec.isLt _)]
    exact gammaLut_mono hγ hdarker
  · rw [State.gamma_gray hheld, hluminances]
    refine List.map_id'' (fun y => BitVec.eq_of_toNat_eq ?_) _
    rw [htable _ y.isLt, hone, gammaLut_one]

end Sys2Proof.Machine
end

section
/-! SUPPORT. The diffusion kernel and the shares of an error (42_ditherer.md R141, R144). -/

namespace Sys2Proof.Machine

/-! ## A well-formed kernel -/

/-- Every tap points at a pixel not yet visited (42_ditherer.md R141). -/
def ForwardTaps (k : DiffusionKernel) : Prop := ∀ tap ∈ k.taps, 0 < tap.dy ∨ tap.dy = 0 ∧ 0 < tap.dx

/-- What the proofs need of the well-formedness of `KERNEL` (42_ditherer.md R141). -/
theorem paramsKernel_wf (p : Params) : 1 ≤ p.kernel.den ∧ p.kernel.taps ≠ [] ∧ ForwardTaps p.kernel := by
  have hcheck := p.kernel_ok
  simp only [DiffusionKernel.check, Bool.and_eq_true, Bool.or_eq_true, Bool.not_eq_true', decide_eq_true_eq,
    List.all_eq_true, List.isEmpty_eq_false_iff] at hcheck
  obtain ⟨⟨⟨⟨hden, htaps⟩, hforward⟩, -⟩, -⟩ := hcheck
  exact ⟨hden, htaps, hforward⟩

/-- The accumulator has a row for every tap. -/
theorem dy_lt_rows_of_mem {k : DiffusionKernel} {t : Tap} (h : t ∈ k.taps) : t.dy < k.rows := by
  have hmax : t.dy ≤ (k.taps.map Tap.dy).foldl max 0 :=
    List.le_max?_getD_of_mem (l := 0 :: k.taps.map Tap.dy) (k := 0)
      (List.mem_cons_of_mem 0 (List.mem_map_of_mem h))
  rw [DiffusionKernel.rows]
  omega

/-! ## The shares -/

theorem map_getD_range {α : Type} (l : List α) (d : α) : (List.range l.length).map (fun i => l.getD i d) = l := by
  refine List.ext_getElem (by simp) fun i hi _ => ?_
  rw [List.length_map, List.length_range] at hi
  simp [hi]

@[simp] theorem diffusionShare_zero (k : DiffusionKernel) (j : Nat) : diffusionShare k j 0 = 0 := by
  simp [diffusionShare, floorShare]

/-- The shares of all taps but the last. -/
theorem floorShares_eq (k : DiffusionKernel) (e : Int) :
    k.taps.dropLast.map (fun t => e * t.weight / k.den)
      = (List.range (k.taps.length - 1)).map fun i => floorShare k i e := by
  refine List.ext_getElem (by simp) fun i hi _ => ?_
  rw [List.length_map, List.length_dropLast] at hi
  simp [floorShare, List.getElem?_eq_getElem (show i < k.taps.length by omega)]

/-- The shares, tap by tap. -/
theorem shares_eq {k : DiffusionKernel} (h : k.taps ≠ []) (e : Int) :
    shares k e = (List.range k.taps.length).map fun j => diffusionShare k j e := by
  obtain ⟨n, hn⟩ : ∃ n, k.taps.length = n + 1 := Nat.exists_eq_add_one.2 (List.length_pos_iff.2 h)
  have hfloored : ∀ i ∈ List.range n, floorShare k i e = diffusionShare k i e := fun i hi => by
    rw [diffusionShare, if_pos (by rw [hn]; exact Nat.succ_lt_succ (List.mem_range.1 hi))]
  have hlast : e - ((List.range n).map fun i => floorShare k i e).sum = diffusionShare k n e := by
    rw [diffusionShare, if_neg (by omega), hn]
    rfl
  dsimp only [shares]
  rw [floorShares_eq, hn, Nat.add_sub_cancel, hlast, List.range_succ, List.map_append, List.map_congr_left hfloored]
  rfl

/-- The last share is what the floored ones leave of the error (42_ditherer.md R144). -/
theorem sum_shares (k : DiffusionKernel) (e : Int) : (shares k e).sum = e := by
  simp [shares]

/-- Each tap with its share. -/
theorem zip_taps_shares {k : DiffusionKernel} (h : k.taps ≠ []) (e : Int) :
    k.taps.zip (shares k e)
      = (List.range k.taps.length).map fun j => (k.taps.getD j ⟨0, 0, 0⟩, diffusionShare k j e) := by
  rw [shares_eq h]
  conv_lhs => rw [← map_getD_range k.taps ⟨0, 0, 0⟩, List.length_map, List.length_range]
  exact List.zip_map'

end Sys2Proof.Machine
end

section
/-! SUPPORT. The accumulator `ACC` (10_state.md R39): what it holds after a deposit and after moving on to the next row
(42_ditherer.md R144, R145). -/

namespace Sys2Proof.Machine

/-- `ACC[j][X]`, 0 outside the accumulator. -/
def accCell (acc : List (List Int)) (j X : Nat) : Int := (acc.getD j []).getD X 0

theorem correctedValue_eq (k : DiffusionKernel) (acc : List (List Int)) (x : Nat) (g : Byte) :
    correctedValue k acc x g = k.den * g.toNat + accCell acc 0 x := by
  cases acc <;> rfl

@[simp] theorem accCell_zeroAcc (k : DiffusionKernel) (width j X : Nat) : accCell (zeroAcc k width) j X = 0 := by
  simp only [accCell, zeroAcc, List.getD_eq_getElem?_getD, List.getElem?_replicate]
  split
  · simp only [Option.getD_some, List.getElem?_replicate]
    split <;> rfl
  · rfl

/-- Moving on drops row 0; the row that comes in is zero, as everything beyond the accumulator is. -/
@[simp] theorem accCell_nextRow (width : Nat) (acc : List (List Int)) (j X : Nat) :
    accCell (nextRow width acc) j X = accCell acc (j + 1) X := by
  have htail : acc.getD (j + 1) [] = acc.tail.getD j [] := by cases acc <;> rfl
  rw [accCell, accCell, nextRow, htail]
  by_cases hj : j < acc.tail.length
  · rw [List.getD_append _ _ _ _ hj]
  · rw [List.getD_append_right _ _ _ _ (Nat.not_lt.1 hj), List.getD_eq_default _ _ (Nat.not_lt.1 hj)]
    cases j - acc.tail.length with
    | zero => simp [List.getElem?_replicate, apply_ite (Option.getD · (0 : Int))]
    | succ m => rfl

/-! ## One deposit -/

theorem getD_modify {α : Type} (l : List α) (f : α → α) (d : α) (i j : Nat) :
    (l.modify i f).getD j d = if i = j ∧ j < l.length then f (l.getD j d) else l.getD j d := by
  simp only [List.getD_eq_getElem?_getD, List.getElem?_modify]
  by_cases hj : j < l.length
  · by_cases hi : i = j <;> simp [hi, hj]
  · simp [hj]

@[simp] theorem deposit_length (width height x y : Nat) (acc : List (List Int)) (share : Tap × Int) :
    (deposit width height x y acc share).length = acc.length := by
  dsimp only [deposit]
  split
  · exact List.length_modify ..
  · rfl

@[simp] theorem deposit_row_length (width height x y : Nat) (acc : List (List Int)) (share : Tap × Int) (j : Nat) :
    ((deposit width height x y acc share).getD j []).length = (acc.getD j []).length := by
  dsimp only [deposit]
  split
  · rw [getD_modify]
    split
    · exact List.length_modify ..
    · rfl
  · rfl

/-- A deposit adds the share to the cell the tap points at, and to no other cell of the image. -/
theorem accCell_deposit {width height x y j X : Nat} {acc : List (List Int)} {share : Tap × Int}
    (hX : X < width) (hj : y + j < height) (hrow : (acc.getD share.1.dy []).length = width) :
    accCell (deposit width height x y acc share) j X
      = accCell acc j X + if (x : Int) + share.1.dx = X ∧ share.1.dy = j then share.2 else 0 := by
  dsimp only [deposit, accCell]
  split
  next hin =>
    rw [getD_modify]
    by_cases hdy : share.1.dy = j
    · subst hdy
      have hlength : share.1.dy < acc.length := by
        by_contra hge
        rw [List.getD_eq_default _ _ (Nat.not_lt.1 hge), List.length_nil] at hrow
        omega
      have hcolumn : ((x : Int) + share.1.dx).toNat = X ↔ (x : Int) + share.1.dx = X := by omega
      rw [if_pos ⟨rfl, hlength⟩, getD_modify, hrow]
      by_cases hdx : (x : Int) + share.1.dx = X <;> simp [hX, hcolumn, hdx]
    · simp [hdy]
  next hout =>
    have hmiss : ¬((x : Int) + share.1.dx = X ∧ share.1.dy = j) := by omega
    rw [if_neg hmiss, add_zero]

/-! ## The deposits of one pixel -/

theorem foldl_deposit_length (width height x y : Nat) (l : List (Tap × Int)) (acc : List (List Int)) :
    (l.foldl (deposit width height x y) acc).length = acc.length := by
  induction l generalizing acc with
  | nil => rfl
  | cons share l ih => rw [List.foldl_cons, ih, deposit_length]

theorem foldl_deposit_row_length (width height x y : Nat) (l : List (Tap × Int)) (acc : List (List Int)) (j : Nat) :
    ((l.foldl (deposit width height x y) acc).getD j []).length = (acc.getD j []).length := by
  induction l generalizing acc with
  | nil => rfl
  | cons share l ih => rw [List.foldl_cons, ih, deposit_row_length]

theorem accCell_foldl_deposit {width height x y j X : Nat} {l : List (Tap × Int)} {acc : List (List Int)}
    (hX : X < width) (hj : y + j < height) (hrows : ∀ share ∈ l, (acc.getD share.1.dy []).length = width) :
    accCell (l.foldl (deposit width height x y) acc) j X
      = accCell acc j X
        + (l.map fun share => if (x : Int) + share.1.dx = X ∧ share.1.dy = j then share.2 else 0).sum := by
  induction l generalizing acc with
  | nil => exact (add_zero _).symm
  | cons share l ih =>
    rw [List.foldl_cons, ih fun other hother => by
        rw [deposit_row_length, hrows other (List.mem_cons_of_mem _ hother)],
      accCell_deposit hX hj (hrows share List.mem_cons_self), List.map_cons, List.sum_cons, add_assoc]

end Sys2Proof.Machine
end

section
/-! SUPPORT. The error diffusion as a recurrence on the pixels, and that the row-by-row algorithm follows it
(42_ditherer.md R144, R145). -/

namespace Sys2Proof.Machine

/-! ## The recurrence -/

section
variable (k : DiffusionKernel) (t : Int) (width : Nat) (gray : List Byte)

/-- The error that a corrected value leaves (42_ditherer.md R144). -/
def quantisationError (v : Int) : Int := v - if v < k.den * t then 0 else k.den * 255

/-- The error of every pixel once the first `n` pixels, row by row, have been visited; 0 where none has. -/
def errorsBefore : Nat → Nat → Nat → Int
  | 0, _, _ => 0
  | n + 1, x, y =>
    if y * width + x = n then
      quantisationError k t (k.den * (gray.getD n 0).toNat + incomingError k width (errorsBefore n) x y)
    else errorsBefore n x y

/-- The corrected value of pixel (x, y): its sample and what the pixels before it diffuse to it. -/
def correctedAt (x y : Nat) : Int :=
  k.den * (gray.getD (y * width + x) 0).toNat
    + incomingError k width (errorsBefore k t width gray (y * width + x)) x y

theorem errorsBefore_eq (n x y : Nat) :
    errorsBefore k t width gray n x y =
      if y * width + x < n then quantisationError k t (correctedAt k t width gray x y) else 0 := by
  induction n with
  | zero => rfl
  | succ n ih =>
    rw [errorsBefore]
    split
    next hn =>
      subst hn
      rw [if_pos (Nat.lt_succ_self _)]
      rfl
    next hn =>
      rw [ih]
      exact if_congr (by omega) rfl rfl

end

section
variable {k : DiffusionKernel} {width : Nat}

@[simp] theorem incomingError_zero (x y : Nat) : incomingError k width (fun _ _ => 0) x y = 0 := by
  simp [incomingError]

/-- Only the pixels before a pixel diffuse to it, because every tap points forward (42_ditherer.md R141). -/
theorem incomingError_congr (hforward : ForwardTaps k) {err err' : Nat → Nat → Int} {x y : Nat}
    (h : ∀ x' y', x' < width → y' ≤ y → y' * width + x' < y * width + x → err x' y' = err' x' y') :
    incomingError k width err x y = incomingError k width err' x y := by
  refine Finset.sum_congr rfl fun j hj => ?_
  have hmem : k.taps.getD j ⟨0, 0, 0⟩ ∈ k.taps := by
    rw [List.getD_eq_getElem _ _ (Finset.mem_range.1 hj)]
    exact List.getElem_mem _
  have hlater := hforward _ hmem
  dsimp only
  generalize k.taps.getD j ⟨0, 0, 0⟩ = tap at hlater ⊢
  split
  next hin =>
    obtain ⟨hleft, hright, hup⟩ := hin
    rw [h _ _ (by omega) (Nat.sub_le _ _)]
    rcases hlater with hdy | ⟨hdy, hdx⟩
    · have habove := Nat.mul_le_mul_right width (show y - tap.dy + 1 ≤ y by omega)
      rw [Nat.succ_mul] at habove
      omega
    · rw [hdy, Nat.sub_zero]
      omega
  next => rfl

theorem correctedAt_recurrence (hforward : ForwardTaps k) (t : Int) (gray : List Byte) (x y : Nat) :
    correctedAt k t width gray x y = k.den * (gray.getD (y * width + x) 0).toNat
      + incomingError k width (fun x y => quantisationError k t (correctedAt k t width gray x y)) x y := by
  rw [correctedAt, incomingError_congr hforward]
  intro x' y' _ _ hbefore
  rw [errorsBefore_eq, if_pos hbefore]

theorem pixelIndex_inj {x x' y y' : Nat} (hx : x < width) (hx' : x' < width) (h : y' * width + x' = y * width + x) :
    x' = x ∧ y' = y := by
  have hcolumn := congrArg (· % width) h
  have hrow := congrArg (· / width) h
  simp only [Nat.mul_add_mod', Nat.mod_eq_of_lt hx, Nat.mod_eq_of_lt hx'] at hcolumn
  simp only [Nat.mul_comm _ width, Nat.mul_add_div (Nat.zero_lt_of_lt hx), Nat.div_eq_of_lt hx,
    Nat.div_eq_of_lt hx', Nat.add_zero] at hrow
  exact ⟨hcolumn, hrow⟩

/-- Visiting pixel (x, y) adds its shares to the error that reaches each pixel. -/
theorem incomingError_errorsBefore_succ (t : Int) (gray : List Byte) {x : Nat} (hx : x < width) (y X Y : Nat) :
    incomingError k width (errorsBefore k t width gray (y * width + x + 1)) X Y
      = incomingError k width (errorsBefore k t width gray (y * width + x)) X Y
        + ∑ j ∈ Finset.range k.taps.length,
            let tap := k.taps.getD j ⟨0, 0, 0⟩
            if (x : Int) + tap.dx = X ∧ y + tap.dy = Y then
              diffusionShare k j (quantisationError k t (correctedAt k t width gray x y))
            else 0 := by
  rw [incomingError, incomingError, ← Finset.sum_add_distrib]
  refine Finset.sum_congr rfl fun j _ => ?_
  dsimp only
  generalize k.taps.getD j ⟨0, 0, 0⟩ = tap
  by_cases hin : 0 ≤ (X : Int) - tap.dx ∧ (X : Int) - tap.dx < width ∧ tap.dy ≤ Y
  · rw [if_pos hin, if_pos hin]
    by_cases hfrom : (x : Int) + tap.dx = X ∧ y + tap.dy = Y
    · obtain ⟨hX, hY⟩ := hfrom
      have hcolumn : ((X : Int) - tap.dx).toNat = x := by omega
      have hrow : Y - tap.dy = y := by omega
      rw [if_pos ⟨hX, hY⟩, hcolumn, hrow, errorsBefore_eq, errorsBefore_eq, if_pos (Nat.lt_succ_self _),
        if_neg (Nat.lt_irrefl _), diffusionShare_zero, zero_add]
    · have hother : (Y - tap.dy) * width + ((X : Int) - tap.dx).toNat ≠ y * width + x := fun h => by
        have := pixelIndex_inj hx (by omega) h
        omega
      rw [errorsBefore, if_neg hother, if_neg hfrom, add_zero]
  · rw [if_neg hin, if_neg hin, if_neg (by omega), add_zero]

end

/-! ## The accumulator follows the recurrence -/

/-- In row `y`, once the pixels that `err` gives an error have been visited, the accumulator has its shape and holds,
for every pixel of the image from row `y` on, the error that has reached it. -/
structure Accumulates (k : DiffusionKernel) (width height : Nat) (err : Nat → Nat → Int) (y : Nat)
    (acc : List (List Int)) : Prop where
  length : acc.length = k.rows
  row : ∀ j, j < k.rows → (acc.getD j []).length = width
  cell : ∀ j X, X < width → y + j < height → accCell acc j X = incomingError k width err X (y + j)

section
variable {k : DiffusionKernel} {width height : Nat}

theorem Accumulates.zeroAcc : Accumulates k width height (fun _ _ => 0) 0 (zeroAcc k width) where
  length := List.length_replicate
  row j hj := by rw [Machine.zeroAcc, List.getD_replicate _ hj, List.length_replicate]
  cell j X _ _ := by rw [accCell_zeroAcc, incomingError_zero]

theorem Accumulates.nextRow {err : Nat → Nat → Int} {y : Nat} {acc : List (List Int)}
    (h : Accumulates k width height err y acc) : Accumulates k width height err (y + 1) (nextRow width acc) where
  length := by
    have hrows : 1 ≤ k.rows := Nat.le_add_right ..
    rw [Machine.nextRow, List.length_append, List.length_tail, h.length, List.length_singleton]
    omega
  row j hj := by
    rw [Machine.nextRow, List.getD_eq_getElem?_getD, List.getElem?_append, List.length_tail, h.length]
    split
    next hlt =>
      rw [List.getElem?_tail, ← List.getD_eq_getElem?_getD]
      exact h.row _ (by omega)
    next hlt =>
      obtain rfl : j = k.rows - 1 := by omega
      simp
  cell j X hX hj := by
    rw [accCell_nextRow, h.cell (j + 1) X hX (by omega), Nat.add_right_comm, Nat.add_assoc]

variable {t : Int} {gray : List Byte}

theorem ditherPixel_eq (x y : Nat) (acc : List (List Int)) (g : Byte) :
    ditherPixel k t width height x y acc g =
      (decide (correctedValue k acc x g < k.den * t),
        (k.taps.zip (shares k (quantisationError k t (correctedValue k acc x g)))).foldl
          (deposit width height x y) acc) := by
  simp only [ditherPixel, quantisationError, decide_eq_true_eq]

/-- One pixel: the bit is the recurrence's, and the accumulator takes in the shares of the pixel's error. -/
theorem ditherPixel_spec (htaps : k.taps ≠ []) {x y : Nat} {acc : List (List Int)} (hx : x < width) (hy : y < height)
    (h : Accumulates k width height (errorsBefore k t width gray (y * width + x)) y acc) :
    let p := ditherPixel k t width height x y acc (gray.getD (y * width + x) 0)
    p.1 = decide (correctedAt k t width gray x y < k.den * t)
      ∧ Accumulates k width height (errorsBefore k t width gray (y * width + x + 1)) y p.2 := by
  have hv : correctedValue k acc x (gray.getD (y * width + x) 0) = correctedAt k t width gray x y := by
    rw [correctedValue_eq, h.cell 0 x hx hy]
    rfl
  have hrows (e : Int) : ∀ share ∈ k.taps.zip (shares k e), (acc.getD share.1.dy []).length = width :=
    fun share hshare => h.row _ (dy_lt_rows_of_mem (List.of_mem_zip hshare).1)
  rw [ditherPixel_eq, hv]
  refine ⟨rfl, ?_, fun j hj => ?_, fun j X hX hj => ?_⟩
  · rw [foldl_deposit_length, h.length]
  · rw [foldl_deposit_row_length, h.row j hj]
  · rw [accCell_foldl_deposit hX hj (hrows _), h.cell j X hX hj, incomingError_errorsBefore_succ t gray hx,
      zip_taps_shares htaps, List.map_map]
    simp only [Nat.add_left_cancel_iff]
    rfl

/-- The pixels of a row from column `x` on. -/
theorem ditherRow_spec (htaps : k.taps ≠ []) {x y : Nat} {acc : List (List Int)} {gs rest : List Byte}
    (hx : x + gs.length ≤ width) (hy : y < height) (hgs : gray.drop (y * width + x) = gs ++ rest)
    (h : Accumulates k width height (errorsBefore k t width gray (y * width + x)) y acc) :
    (∀ i, i < gs.length → (ditherRow k t width height y x acc gs).1.getD i false
        = decide (correctedAt k t width gray (x + i) y < k.den * t))
      ∧ Accumulates k width height (errorsBefore k t width gray (y * width + x + gs.length)) y
          (ditherRow k t width height y x acc gs).2 := by
  induction gs generalizing x acc with
  | nil => exact ⟨fun i hi => absurd hi (Nat.not_lt_zero i), h⟩
  | cons g gs ih =>
    rw [List.length_cons] at hx
    have hg : g = gray.getD (y * width + x) 0 := by
      have hhead := congrArg (·.getD 0 0) hgs
      simpa [List.getElem?_drop] using hhead.symm
    have htail : gray.drop (y * width + (x + 1)) = gs ++ rest := by
      rw [← Nat.add_assoc, ← List.drop_drop, hgs]
      rfl
    obtain ⟨hbit, hnext⟩ := ditherPixel_spec htaps (by omega) hy h
    rw [← hg] at hbit hnext
    obtain ⟨hbits, hend⟩ := ih (by omega) htail hnext
    refine ⟨fun i hi => ?_, ?_⟩
    · cases i with
      | zero => exact hbit
      | succ i =>
        have hcolumn : x + (i + 1) = x + 1 + i := by omega
        rw [hcolumn]
        exact hbits i (Nat.lt_of_succ_lt_succ hi)
    · rw [List.length_cons, Nat.add_comm gs.length, ← Nat.add_assoc]
      exact hend

/-- The rows from `y` on. -/
theorem ditherRows_spec (htaps : k.taps ≠ []) {y count : Nat} {acc : List (List Int)}
    (hcount : y + count ≤ height) (hgray : height * width ≤ gray.length)
    (h : Accumulates k width height (errorsBefore k t width gray (y * width)) y acc) {x r : Nat} (hx : x < width)
    (hr : r < count) :
    (ditherRows k t width height y acc (splitRows width count (gray.drop (y * width)))).1.getD (r * width + x) false
      = decide (correctedAt k t width gray x (y + r) < k.den * t) := by
  induction count generalizing y r acc with
  | zero => omega
  | succ count ih =>
    have hlength : ((gray.drop (y * width)).take width).length = width := by
      have hrows := Nat.mul_le_mul_right width (show y + 1 ≤ height by omega)
      rw [Nat.succ_mul] at hrows
      rw [List.length_take, List.length_drop]
      omega
    obtain ⟨hbits, hend⟩ := ditherRow_spec (x := 0) htaps (by rw [hlength, Nat.zero_add]) (by omega)
      (List.take_append_drop width (gray.drop (y * width))).symm h
    rw [hlength] at hbits hend
    rw [splitRows, ditherRows]
    dsimp only
    have hrow : (ditherRow k t width height y 0 acc ((gray.drop (y * width)).take width)).1.length = width := by
      rw [ditherRow_length, hlength]
    cases r with
    | zero =>
      rw [List.getD_append _ _ _ _ (by omega), Nat.zero_mul, Nat.zero_add, hbits x hx, Nat.zero_add]
      rfl
    | succ r =>
      have hindex : (r + 1) * width + x - width = r * width + x := by rw [Nat.succ_mul]; omega
      rw [List.getD_append_right _ _ _ _ (by rw [hrow, Nat.succ_mul]; omega), hrow, hindex, List.drop_drop,
        ← Nat.succ_mul, ih (by omega) (by rw [Nat.succ_mul]; exact hend.nextRow) (by omega), Nat.add_right_comm y 1]
      rfl

/-- Each cell of `MONO` is the recurrence's bit at its place. -/
theorem ditherImage_getD (htaps : k.taps ≠ []) (hgray : height * width ≤ gray.length) {x y : Nat} (hx : x < width)
    (hy : y < height) :
    (ditherImage k t width height gray).1.getD (y * width + x) false
      = decide (correctedAt k t width gray x y < k.den * t) := by
  have h := ditherRows_spec (t := t) (y := 0) htaps (Nat.zero_add height).le hgray
    (by rw [Nat.zero_mul]; exact Accumulates.zeroAcc) hx hy
  rwa [Nat.zero_mul, List.drop_zero, Nat.zero_add] at h

end

end Sys2Proof.Machine
end

section
/-! PROOFS. The statements about DITHER (42_ditherer.md R140 to R148). -/

namespace Sys2Proof.Machine

/-- Settles O32: the shares, tap by tap, are the statement's; the last one is the remainder. -/
theorem sharesSumToError : Obligations.SharesSumToError := by
  intro p e
  obtain ⟨-, htaps, -⟩ := paramsKernel_wf p
  refine ⟨by rw [shares_eq htaps, List.length_map, List.length_range], sum_shares p.kernel e, fun j hj => ?_⟩
  rw [shares_eq htaps, List.getD_eq_getElem _ _ (by rwa [List.length_map, List.length_range]), List.getElem_map,
    List.getElem_range]

/-- Settles O31: the corrected values are those of the recurrence, which the accumulator follows row by row. -/
theorem ditherDiffusesErrors : Obligations.DitherDiffusesErrors := by
  intro s k w h t hgray
  obtain ⟨-, htaps, hforward⟩ := paramsKernel_wf s.params
  have hnext : exec .dither s = .next s.dither := rfl
  have hheld : s.grayCells (h * w) = s.buf.gray := by
    rw [State.grayCells, viewCells_of_le hgray.ge, List.take_of_length_le hgray.le]
  have hmono : s.dither.buf.mono = (ditherImage k t w h s.buf.gray).1 := by
    rw [← hheld]
    rfl
  refine ⟨s.dither, hnext, hmono ▸ ditherImage_length hgray, ⟨correctedAt k t w s.buf.gray, ?_, ?_⟩, rfl,
    (exec_sameInputs hnext).sameMemory⟩
  · exact fun x y _ _ => correctedAt_recurrence hforward t s.buf.gray x y
  · intro x y hx hy
    rw [hmono, ditherImage_getD htaps hgray.ge hx hy]

/-! ## Solid fields (42_ditherer.md R148 (b)) -/

/-- Where no pixel brings an error of its own, none reaches another: every corrected value is the sample's. -/
theorem correctedValue_of_no_error {k : DiffusionKernel} {width height : Nat} {t c : Int} {v : Nat → Nat → Int}
    (hforward : ForwardTaps k) (hv : ∀ x y, x < width → y < height →
      v x y = c + incomingError k width (fun x y => quantisationError k t (v x y)) x y)
    (hc : quantisationError k t c = 0) {x y : Nat} (hx : x < width) (hy : y < height) : v x y = c := by
  induction hn : y * width + x using Nat.strong_induction_on generalizing x y with
  | h n ih =>
    rw [hv x y hx hy, incomingError_congr hforward (err' := fun _ _ => 0), incomingError_zero, add_zero]
    intro x' y' hx' hy' hbefore
    rw [ih _ (hn ▸ hbefore) hx' (by omega) rfl, hc]

/-- A field of samples that leave no error is all black or all white, as the sample is. -/
theorem dither_solid {s : State} {g : Byte}
    (hgray : s.buf.gray = List.replicate (s.res.outHeight.toNat * s.params.cfg.width) g)
    (hg : quantisationError s.params.kernel s.job.threshold (s.params.kernel.den * g.toNat) = 0) :
    ∃ u, exec .dither s = .next u
      ∧ u.buf.mono = List.replicate (s.res.outHeight.toNat * s.params.cfg.width)
          (decide (s.params.kernel.den * g.toNat < s.params.kernel.den * s.job.threshold)) := by
  obtain ⟨-, -, hforward⟩ := paramsKernel_wf s.params
  obtain ⟨hwidth, -⟩ := paramsCfg_bounds s.params
  obtain ⟨u, hexec, hlength, ⟨v, hv, hmono⟩, -⟩ := ditherDiffusesErrors s (by rw [hgray, List.length_replicate])
  have hsample {x y : Nat} (hx : x < s.params.cfg.width) (hy : y < s.res.outHeight.toNat) :
      s.buf.gray.getD (y * s.params.cfg.width + x) 0 = g := by
    rw [hgray, List.getD_replicate]
    exact Nat.mul_comm y _ ▸ Nat.mul_add_lt_mul_of_lt_of_lt hy hx
  have hsolid {x y : Nat} (hx : x < s.params.cfg.width) (hy : y < s.res.outHeight.toNat) :
      v x y = s.params.kernel.den * g.toNat :=
    correctedValue_of_no_error hforward (fun x y hx hy => by rw [hv x y hx hy, hsample hx hy]; rfl) hg hx hy
  refine ⟨u, hexec, List.eq_replicate_iff.2 ⟨hlength, fun b hb => ?_⟩⟩
  obtain ⟨i, hi, rfl⟩ := List.getElem_of_mem hb
  have hx : i % s.params.cfg.width < s.params.cfg.width := Nat.mod_lt _ hwidth
  have hy : i / s.params.cfg.width < s.res.outHeight.toNat := by
    rw [hlength] at hi
    exact Nat.div_lt_of_lt_mul (Nat.mul_comm _ s.params.cfg.width ▸ hi)
  have hbit := hmono _ _ hx hy
  rwa [Nat.div_add_mod', hsolid hx hy, List.getD_eq_getElem _ _ hi] at hbit

/-- The threshold is at most 255, and 0 only for the bias −128 (42_ditherer.md R143). -/
theorem Job.threshold_bounds (j : Job) : j.threshold ≤ 255 ∧ (j.ditherBias ≠ 0x80#8 → 1 ≤ j.threshold) := by
  have hlo := BitVec.le_toInt j.ditherBias
  have hhi := BitVec.toInt_lt (x := j.ditherBias)
  unfold Job.threshold
  refine ⟨by omega, fun hne => ?_⟩
  have hne' : j.ditherBias.toInt ≠ -128 := fun h => hne (BitVec.toInt_inj.1 h)
  omega

/-- Settles O33: 0 is below every threshold but 0 and leaves no error; 255 is below none and leaves no error. -/
theorem ditherKeepsSolidFields : Obligations.DitherKeepsSolidFields := by
  intro s n
  obtain ⟨hden, -, -⟩ := paramsKernel_wf s.params
  obtain ⟨hhi, hlo⟩ := s.job.threshold_bounds
  have hpos : (0 : Int) < s.params.kernel.den := by omega
  refine ⟨fun hbias hgray => ?_, fun hgray => ?_⟩
  · have hblack : s.params.kernel.den * ((0 : Byte).toNat : Int) < s.params.kernel.den * s.job.threshold :=
      Int.mul_lt_mul_of_pos_left (hlo hbias) hpos
    have hsolid := dither_solid hgray (by rw [quantisationError, if_pos hblack]; simp)
    rwa [decide_eq_true hblack] at hsolid
  · have hwhite : ¬s.params.kernel.den * ((255 : Byte).toNat : Int) < s.params.kernel.den * s.job.threshold :=
      Int.not_lt.2 (Int.mul_le_mul_of_nonneg_left hhi hpos.le)
    have hsolid := dither_solid hgray (by rw [quantisationError, if_neg hwhite]; simp)
    rwa [decide_eq_false hwhite] at hsolid

end Sys2Proof.Machine
end

section
/-! SUPPORT. The bits of a packed line: of one byte, of a line, and of the bit-serial packer's shift register
(43_packer.md R160, R161). -/

namespace Sys2Proof.Machine

/-! ## Dots -/

theorem dot_eq (m : List Bool) (off p : Nat) :
    dot m off p = (decide (off ≤ p ∧ p < off + m.length) && m.getD (p - off) false) := by
  unfold dot
  split <;> simp [*]

/-- Position `off + x` shows pixel `x` of the row. -/
theorem dot_inside {m : List Bool} {x : Nat} (off : Nat) (h : x < m.length) : dot m off (off + x) = m[x] := by
  simp [dot, h]

/-- Every position outside the row is white. -/
theorem dot_outside {m : List Bool} {off p : Nat} (h : p < off ∨ off + m.length ≤ p) : dot m off p = false :=
  if_neg (by omega)

/-! ## Packed bytes and lines -/

/-- The sum that makes a byte is the number whose bit `k` is its dot `7 − k`. -/
theorem packByte_eq_ofBits (m : List Bool) (off i : Nat) :
    packByte m off i = BitVec.ofNat 8 (Nat.ofBits fun k : Fin 8 => dot m off (8 * i + (7 - k))) := by
  rw [packByte]
  congr 1
  simp [sumTo, Nat.ofBits_succ]
  omega

theorem packByte_getLsbD {k : Nat} (m : List Bool) (off i : Nat) (hk : k < 8) :
    (packByte m off i).getLsbD k = dot m off (8 * i + (7 - k)) := by
  rw [packByte_eq_ofBits, BitVec.getLsbD_ofNat, Nat.testBit_ofBits_lt _ k hk, decide_eq_true hk, Bool.true_and]

/-- A byte whose bits are the dots of positions `8·i` to `8·i + 7` is byte `i` of the packed line. -/
theorem eq_packByte {b : Byte} {m : List Bool} {off i : Nat}
    (h : ∀ k, k < 8 → b.getLsbD k = dot m off (8 * i + (7 - k))) : b = packByte m off i :=
  BitVec.eq_of_getLsbD_eq fun k hk => by rw [h k hk, packByte_getLsbD m off i hk]

theorem packLine_succ (bytes : Nat) (m : List Bool) (off : Nat) :
    packLine (bytes + 1) m off = packLine bytes m off ++ [packByte m off bytes] := by
  simp [packLine, List.range_succ]

/-- Bit `7 − p mod 8` of byte `p div 8` of a packed line is the dot at head position `p` (43_packer.md R160). -/
theorem packLine_getLsbD {bytes p : Nat} (m : List Bool) (off : Nat) (hp : p < 8 * bytes) :
    ((packLine bytes m off).getD (p / 8) 0).getLsbD (7 - p % 8) = dot m off p := by
  have hbyte : p / 8 < bytes := by omega
  have hbit : 8 * (p / 8) + (7 - (7 - p % 8)) = p := by omega
  simp only [packLine, List.getD_eq_getElem?_getD, List.getElem?_map, List.getElem?_range hbyte, Option.map_some,
    Option.getD_some]
  rw [packByte_getLsbD _ _ _ (by omega), hbit]

/-! ## The shift register and the bit counter (43_packer.md R161) -/

/-- Shifting a dot in moves every bit of `SR` one place up and puts the dot at bit 0. -/
theorem SerialPacker.shift_sr_getLsbD {k : Nat} (p : SerialPacker) (d : Bool) (hk : k < 8) :
    (p.shift d).sr.getLsbD k = if k = 0 then d else p.sr.getLsbD (k - 1) := by
  cases k with
  | zero => simp [SerialPacker.shift]
  | succ k => simp [SerialPacker.shift, hk, BitVec.getLsbD_eq_getElem (show k < 8 by omega)]

theorem SerialPacker.shift_bc_toNat (p : SerialPacker) (d : Bool) : (p.shift d).bc.toNat = (p.bc.toNat + 1) % 8 := by
  simp [SerialPacker.shift, BitVec.toNat_add]

/-- A byte leaves when the eighth dot since the last one comes in. -/
theorem SerialPacker.shift_out (p : SerialPacker) (d : Bool) :
    (p.shift d).out = if p.bc.toNat = 7 then p.out ++ [(p.shift d).sr] else p.out := by
  have hwrap : p.bc + 1 = 0 ↔ p.bc.toNat = 7 := by bv_omega
  simp only [SerialPacker.shift, hwrap]

/-- `p` is the packer after the first `n` dots of a line: whole bytes are out, the counter counts the rest, and `SR`
holds the last dots, the newest at bit 0. -/
structure SerialPacker.Holds (m : List Bool) (off n : Nat) (p : SerialPacker) : Prop where
  out : p.out = packLine (n / 8) m off
  bc : p.bc.toNat = n % 8
  sr : ∀ k, k < 8 → k < n → p.sr.getLsbD k = dot m off (n - 1 - k)

theorem SerialPacker.Holds.zero (m : List Bool) (off : Nat) : SerialPacker.Holds m off 0 ⟨0, 0, []⟩ :=
  ⟨rfl, rfl, fun _ _ h => absurd h (Nat.not_lt_zero _)⟩

theorem SerialPacker.Holds.shift {m : List Bool} {off n : Nat} {p : SerialPacker} (h : p.Holds m off n) :
    (p.shift (dot m off n)).Holds m off (n + 1) := by
  have hsr : ∀ k, k < 8 → k < n + 1 → (p.shift (dot m off n)).sr.getLsbD k = dot m off (n - k) := by
    intro k hk hkn
    rw [SerialPacker.shift_sr_getLsbD p _ hk]
    split
    next hzero => rw [hzero, Nat.sub_zero]
    next hpos => rw [h.sr (k - 1) (by omega) (by omega), show n - 1 - (k - 1) = n - k by omega]
  refine ⟨?_, ?_, hsr⟩
  · rw [SerialPacker.shift_out, h.bc, h.out]
    split
    next hfull =>
      rw [show (n + 1) / 8 = n / 8 + 1 by omega, packLine_succ]
      congr 2
      refine eq_packByte fun k hk => ?_
      rw [hsr k hk (by omega), show 8 * (n / 8) + (7 - k) = n - k by omega]
    next hpart => rw [show (n + 1) / 8 = n / 8 by omega]
  · rw [SerialPacker.shift_bc_toNat, h.bc]
    omega

theorem SerialPacker.holds_foldl (m : List Bool) (off n : Nat) :
    ((List.range n).foldl (fun p i => SerialPacker.shift p (dot m off i)) ⟨0, 0, []⟩).Holds m off n := by
  induction n with
  | zero => exact SerialPacker.Holds.zero m off
  | succ n ih =>
    rw [List.range_succ, List.foldl_append]
    exact ih.shift

theorem SerialPacker.finish_of_zero {p : SerialPacker} (h : p.bc = 0) : p.finish = p := if_pos h

theorem SerialPacker.finish_of_ne {p : SerialPacker} (h : p.bc ≠ 0) :
    p.finish = ⟨p.sr <<< (8 - p.bc.toNat), 0, p.out ++ [p.sr <<< (8 - p.bc.toNat)]⟩ := if_neg h

theorem SerialPacker.finish_bc (p : SerialPacker) : p.finish.bc = 0 := by
  by_cases h : p.bc = 0
  · rw [SerialPacker.finish_of_zero h, h]
  · rw [SerialPacker.finish_of_ne h]

/-- The zero fill at the end of the line stands for the white positions beyond the row. -/
theorem SerialPacker.Holds.finish_out {m : List Bool} {off head : Nat} {p : SerialPacker} (h : p.Holds m off head)
    (hfit : off + m.length ≤ head) : p.finish.out = packLine ((head + 7) / 8) m off := by
  have hzero : p.bc = 0 ↔ head % 8 = 0 := by rw [← h.bc]; bv_omega
  by_cases hboundary : head % 8 = 0
  · rw [SerialPacker.finish_of_zero (hzero.2 hboundary), h.out, show (head + 7) / 8 = head / 8 by omega]
  · rw [SerialPacker.finish_of_ne (hboundary ∘ hzero.1), h.out, h.bc, show (head + 7) / 8 = head / 8 + 1 by omega,
      packLine_succ]
    refine congrArg (packLine (head / 8) m off ++ [·]) (eq_packByte fun k hk => ?_)
    rw [BitVec.getLsbD_shiftLeft, decide_eq_true hk, Bool.true_and]
    by_cases hfill : k < 8 - head % 8
    · rw [dot_outside (Or.inr (by omega)), decide_eq_true hfill]
      rfl
    · rw [show 8 * (head / 8) + (7 - k) = head - 1 - (k - (8 - head % 8)) by omega, ← h.sr _ (by omega) (by omega),
        decide_eq_false hfill]
      rfl

end Sys2Proof.Machine
end

section
/-! SUPPORT. What `PACK` leaves in the state: the rows it takes from `MONO`, and the pixels of `RASTER` (43_packer.md
R155 to R160). -/

namespace Sys2Proof.Machine

theorem getD_flatten_of_forall {α : Type} {n i : Nat} {ls : List (List α)} (h : ∀ l ∈ ls, l.length = n) (hi : i < n)
    (r : Nat) (d : α) : ls.flatten.getD (r * n + i) d = (ls.getD r []).getD i d := by
  induction ls generalizing r with
  | nil => rfl
  | cons l ls ih =>
    have hl : l.length = n := h l List.mem_cons_self
    cases r with
    | zero =>
      rw [List.flatten_cons, Nat.zero_mul, Nat.zero_add, List.getD_append _ _ _ _ (hl ▸ hi), List.getD_cons_zero]
    | succ r =>
      rw [List.flatten_cons, List.getD_append_right _ _ _ _ (by rw [hl, Nat.succ_mul]; omega), List.getD_cons_succ,
        ← ih (fun l hl => h l (List.mem_cons_of_mem _ hl)) r, hl,
        show (r + 1) * n + i - n = r * n + i by rw [Nat.succ_mul]; omega]

/-! ## The rows -/

/-- A row that `PACK` takes is a row of the image, whether or not `MONO` holds its cells. -/
theorem State.packRow_length {s : State} {r : Nat} (h : r < s.packCount) :
    (s.packRows.getD r []).length = s.params.cfg.width := by
  rw [List.getD_eq_getElem _ _ (by simpa using h)]
  exact length_of_mem_splitRows (by simp [State.monoCells]) (List.getElem_mem _)

theorem State.packRow_getD {s : State} {r x : Nat}
    (hheld : s.buf.mono.length = s.res.outHeight.toNat * s.params.cfg.width) (hr : r < s.packCount)
    (hx : x < s.params.cfg.width) :
    (s.packRows.getD r []).getD x false = s.buf.mono.getD (r * s.params.cfg.width + x) false := by
  have hcells : s.packCount * s.params.cfg.width ≤ s.buf.mono.length :=
    hheld ▸ Nat.mul_le_mul_right _ (Nat.min_le_left _ _)
  have hpixel : r * s.params.cfg.width + x < s.packCount * s.params.cfg.width :=
    Nat.mul_comm s.params.cfg.width r ▸ Nat.mul_add_lt_mul_of_lt_of_lt hr hx
  rw [State.packRows, State.monoCells, viewCells_of_le hcells]
  simp only [List.getD_eq_getElem?_getD, splitRows_getElem? hr, Option.getD_some, List.getElem?_take_of_lt hx,
    List.getElem?_drop, List.getElem?_take_of_lt hpixel]

theorem State.packCount_lt (s : State) : s.packCount < 2 ^ 16 :=
  (Nat.min_le_left _ _).trans_lt s.res.outHeight.isLt

/-! ## PACK, by its outcome -/

theorem State.pack_of_wide {s : State} (h : s.params.cfg.head < s.params.cfg.width) : s.pack = s.abort .rowTooWide :=
  if_pos h

theorem State.pack_of_fits {s : State} (h : s.params.cfg.width ≤ s.params.cfg.head) :
    s.pack = { s with
      buf := { s.buf with raster :=
        (s.packRows.map fun m => packLine s.params.cfg.bytes m (alignOffset s.params.cfg s.job.align)).flatten }
      ser := { s.ser with
        sr := (s.packSerial (alignOffset s.params.cfg s.job.align)).sr
        bc := (s.packSerial (alignOffset s.params.cfg s.job.align)).bc }
      res := { s.res with nLines := BitVec.ofNat 16 s.packCount }
      ctl := { s.ctl with jobState := .encoding } } :=
  if_neg (Nat.not_lt.2 h)

/-- Head position `p` of line `r` of the raster is the dot of row `r` there (20_memory.md R63). -/
theorem State.packedRaster_getLsbD {s : State} {bytes r p : Nat} (off : Nat) (hr : r < s.packCount)
    (hp : p < 8 * bytes) :
    ((s.packRows.map fun m => packLine bytes m off).flatten.getD (r * bytes + p / 8) 0).getLsbD (7 - p % 8)
      = dot (s.packRows.getD r []) off p := by
  have hrow : r < s.packRows.length := by simpa using hr
  rw [getD_flatten_of_forall (n := bytes) (by simp) (by omega), ← packLine_getLsbD _ off hp]
  simp only [List.getD_eq_getElem?_getD, List.getElem?_map, List.getElem?_eq_getElem hrow, Option.map_some,
    Option.getD_some]

theorem alignOffset_eq (c : Cfg) (a : Align) :
    alignOffset c a = if a = .leftPadded then c.head - c.width else (c.head - c.width) / 2 := by
  cases a <;> rfl

end Sys2Proof.Machine
end

section
/-! PROOFS. The statements about PACK (43_packer.md R155 to R163). -/

namespace Sys2Proof.Machine

/-- Settles O36: the bits of the line are the dots of its head positions. -/
theorem packUnpackRoundTrip : Obligations.PackUnpackRoundTrip := by
  intro bytes off m hfit
  refine ⟨List.ext_getElem (by simp [unpack]) fun x _ hx => ?_, fun p hp hout => ?_⟩
  · have hbit := packLine_getLsbD m off (show off + x < 8 * bytes by omega)
    simpa [unpack, dot_inside off hx] using hbit
  · rw [packLine_getLsbD m off hp, dot_outside hout]

/-- Settles O37: what the packer holds after each dot, and the zero fill at the end. -/
theorem serialPackerAgrees : Obligations.SerialPackerAgrees := by
  intro head off m hfit
  have hout : (packLineSerial head m off).out = packLine ((head + 7) / 8) m off :=
    (SerialPacker.holds_foldl m off head).finish_out hfit
  exact ⟨hout, by rw [hout, packLine_length], SerialPacker.finish_bc _⟩

/-- Settles O34: `RowTooWide` needs no reset frame, and a row that fits leaves the record alone. -/
theorem packRejectsWideRows : Obligations.PackRejectsWideRows := by
  intro s
  refine ⟨s.pack, rfl, fun hwide => ?_, fun hfits => ?_⟩
  · rw [State.pack_of_wide hwide]
    refine ⟨s.abort_failedWith .rowTooWide, s.abort_sameStatus _, State.abort_nothingSent rfl, fun hstage => ?_⟩
    simp [State.readRegister, State.errWord, hstage, PrintError.code, JobState.code]
  · rw [State.pack_of_fits hfits]
    exact ⟨rfl, rfl⟩

/-- Settles O35: each line of the raster shows the dots of its row, and a held `MONO` gives every row its own pixels. -/
theorem packPlacesPixels : Obligations.PackPlacesPixels := by
  intro s c n bytes off hfits
  have hpack := State.pack_of_fits hfits
  have hraster : s.pack.buf.raster = (s.packRows.map fun m => packLine bytes m off).flatten := by
    rw [hpack, alignOffset_eq]
    rfl
  refine ⟨s.pack, rfl, ?_, ?_, ?_, ?_, (State.sameInputs_pack s).sameMemory⟩
  · rw [hpack, BitVec.toNat_ofNat, Nat.mod_eq_of_lt s.packCount_lt]
    rfl
  · rw [hraster, packedRaster_length]
    rfl
  · intro hheld r p hr hp
    rw [hraster, State.packedRaster_getLsbD off hr hp, dot_eq, State.packRow_length hr]
    by_cases hin : off ≤ p ∧ p < off + c.width
    · rw [State.packRow_getD hheld hr (show p - off < c.width by omega)]
    · rw [decide_eq_false hin, Bool.false_and, Bool.false_and]
  · rw [hpack]

end Sys2Proof.Machine
end

section
/-! SUPPORT. The queue of a job, frame by frame (44_protocol_encoder.md R171), and the lines of a `RASTER` that is held
whole. -/

namespace Sys2Proof.Machine

section
variable (w : Wire) (id : Byte) (n : Nat) (lines : List (List Byte))

theorem buildQueue_init : (buildQueue w id n lines)[0]? = some (frameInit w) := rfl

theorem buildQueue_media : (buildQueue w id n lines)[1]? = some (frameMedia w id n) := rfl

theorem buildQueue_raster {r : Nat} (hr : r < lines.length) :
    (buildQueue w id n lines)[r + 2]? = some (frameRaster w lines[r]) := by
  simp [buildQueue, List.getElem?_append_left, hr]

theorem buildQueue_print : (buildQueue w id n lines)[lines.length + 2]? = some (framePrint w) := by
  simp [buildQueue]

end

/-- Line `r` is the bytes `r·BYTES …` of the raster (20_memory.md R63). -/
theorem State.rasterLines_getElem? {s : State}
    (hheld : s.buf.raster.length = s.res.nLines.toNat * s.params.cfg.bytes) {r : Nat} (hr : r < s.res.nLines.toNat) :
    s.rasterLines[r]? = some ((s.buf.raster.drop (r * s.params.cfg.bytes)).take s.params.cfg.bytes) := by
  rw [State.rasterLines, State.rasterCells, viewCells_of_le hheld.ge, List.take_of_length_le hheld.le,
    splitRows_getElem? hr]

/-- Every line has `BYTES` bytes, whether or not `RASTER` holds them. -/
theorem State.length_of_mem_rasterLines {s : State} {line : List Byte} (h : line ∈ s.rasterLines) :
    line.length = s.params.cfg.bytes :=
  length_of_mem_splitRows (by simp [State.rasterCells]) h

end Sys2Proof.Machine
end

section
/-! PROOFS. `ENCODE` and the byte-serial packetizer (44_protocol_encoder.md R170, R171, R179). -/

namespace Sys2Proof.Machine

/-- Settles O38: each frame by its place in the queue; a line that is held whole has the length its header names. -/
theorem encodeBuildsTheQueue : Obligations.EncodeBuildsTheQueue := by
  intro s w n bytes
  have hlen : s.rasterLines.length = n := rasterLines_length s
  have hqueue : s.encodeFrames.buf.txq = buildQueue w s.job.mediaId n s.rasterLines := rfl
  refine ⟨s.encodeFrames, rfl, ?_, buildQueue_init .., ?_, fun hheld r hr => ?_, ?_, rfl,
    (exec_sameInputs (i := .encode) rfl).sameMemory⟩
  · rw [hqueue, buildQueue_length, hlen]
  · rw [hqueue, buildQueue_media, frameMedia, List.append_assoc, List.singleton_append]
  · have hline := State.rasterLines_getElem? hheld hr
    obtain ⟨hr', heq⟩ := List.getElem?_eq_some_iff.1 hline
    have hbytes : s.rasterLines[r].length = bytes := State.length_of_mem_rasterLines (List.getElem_mem hr')
    rw [hqueue, Nat.add_comm 2 r, buildQueue_raster _ _ _ _ hr', frameRaster, hbytes, heq]
  · rw [hqueue, ← hlen, buildQueue_print]
    rfl

/-- Settles O40: by the kind of frame; a byte of a RASTER frame is one of its header or one of its line. -/
theorem packetizerStreamsTheQueue : Obligations.PacketizerStreamsTheQueue := by
  intro w id n lines i k hi
  obtain rfl | rfl | rfl | ⟨r, hr, rfl⟩ :
      i = 0 ∨ i = 1 ∨ i = lines.length + 2 ∨ ∃ r, r < lines.length ∧ i = r + 2 := by
    by_cases h : 2 ≤ i ∧ i < lines.length + 2
    · exact .inr (.inr (.inr ⟨i - 2, by omega, by omega⟩))
    · omega
  · rfl
  · rfl
  · rw [buildQueue_print, Option.bind_some, serialFrameByte, if_neg (by omega), if_neg (by omega), if_pos rfl,
      framePrint]
  · rw [buildQueue_raster _ _ _ _ hr, Option.bind_some, frameRaster, List.getElem?_append, serialFrameByte,
      if_neg (by omega), if_neg (by omega), if_neg (by omega), Nat.add_sub_cancel, List.getElem?_eq_getElem hr]

end Sys2Proof.Machine
end

section
/-! SUPPORT. What an instruction that sends a frame does, by LINK's answer to the write (44_protocol_encoder.md R177,
R180), and what a failed write leaves (60_exceptions.md R246, R247). -/

namespace Sys2Proof.Machine

/-! ## The frame an instruction sends -/

theorem State.SameInputs.keepsInputs {s t : State} (h : s.SameInputs t) : KeepsInputs s t :=
  ⟨h.params, h.job, h.sameMemory, h.schedule, h.hostRd⟩

/-- `STATREQ.op` and STATREQ send the StatusRequest frame. -/
theorem exec_statusRequest {i : Instr} (hi : i = .statreqOp ∨ i = .statreq) (s : State) :
    exec i s = .next (s.requestStatus (frameStatreq s.params.wire)) := by
  obtain rfl | rfl := hi <;> rfl

/-- `TX` sends the frame at `FRAME_IDX`, a command frame other than the StatusRequest frame its own bytes. -/
theorem exec_of_sentFrame {s : State} {i : Instr} {f : List Byte} (h : s.sentFrame i = some f)
    (hop : i ≠ .statreqOp) (hframe : i ≠ .statreq) : exec i s = .next (s.transmit f) := by
  cases i with
  | tx => exact exec_tx_of_frame h
  | init | media | raster | print => cases h; rfl
  | statreqOp => exact absurd rfl hop
  | statreq => exact absurd rfl hframe
  | scale | gamma | dither | pack | encode | statusOp | start | cancel | clrBusy | status => cases h

/-- A write that LINK does not accept aborts the job, whichever instruction made it. -/
theorem exec_of_failedWrite {s : State} {i : Instr} {f : List Byte} {e : PrintError} (h : s.sentFrame i = some f)
    (htransmit : s.transmit f = (s.devWrite f).abort e) (hrequest : s.requestStatus f = (s.devWrite f).abort e) :
    exec i s = .next ((s.devWrite f).abort e) := by
  by_cases hi : i = .statreqOp ∨ i = .statreq
  · obtain rfl : frameStatreq s.params.wire = f := by
      obtain rfl | rfl := hi <;> exact Option.some.inj h
    rw [exec_statusRequest hi, hrequest]
  · obtain ⟨hop, hframe⟩ := not_or.1 hi
    rw [exec_of_sentFrame h hop hframe, htransmit]

theorem exec_of_write_ioError {s : State} {i : Instr} {f : List Byte} {code : Word} {delivered : Nat}
    (h : s.sentFrame i = some f) (hw : s.nextWrite = .ioError code delivered) :
    exec i s = .next ((s.devWrite f).abort (.ioError code)) :=
  exec_of_failedWrite h (by rw [State.transmit, hw]) (by rw [State.requestStatus, hw])

theorem exec_of_write_timeout {s : State} {i : Instr} {f : List Byte} {delivered : Nat}
    (h : s.sentFrame i = some f) (hw : s.nextWrite = .timeout delivered) :
    exec i s = .next ((s.devWrite f).abort .deviceTimeout) :=
  exec_of_failedWrite h (by rw [State.transmit, hw]) (by rw [State.requestStatus, hw])

/-! ## An accepted frame -/

theorem State.frameSent_ctl (s : State) : s.frameSent.ctl = { s.ctl with
    frameIdx := s.ctl.frameIdx + 1
    jobState := if (s.ctl.frameIdx + 1).toNat = s.buf.txq.length then .awaitingStatus else .transferring } := by
  unfold State.frameSent
  dsimp only
  split <;> rfl

theorem State.frameSent_buf_of_eq {s : State} (h : (s.ctl.frameIdx + 1).toNat = s.buf.txq.length) :
    s.frameSent.buf = { s.buf with raster := [], txq := [] } := by
  unfold State.frameSent
  dsimp only
  rw [if_pos h]
  rfl

theorem requestStatus_of_ok {s : State} (h : s.nextWrite = .ok) (f : List Byte) : s.requestStatus f =
    { s.devWrite f with ctl := { s.ctl with awSub := true, jobState := .awaitingStatus } } := by
  rw [State.requestStatus, h]
  rfl

theorem State.devWrite_txLog_of_ok {s : State} (h : s.nextWrite = .ok) (f : List Byte) :
    (s.devWrite f).env.txLog = s.env.txLog ++ f := by
  rw [State.devWrite_txLog, h, appendedBytes]

/-! ## A failed write -/

/-- LINK delivers the frame's first bytes, whatever it answers (20_memory.md R76). -/
theorem appendedBytes_prefix (bytes : List Byte) (a : WriteAnswer) : appendedBytes bytes a <+: bytes := by
  cases a with
  | ok => exact List.prefix_rfl
  | ioError _ delivered | timeout delivered => exact List.take_prefix delivered bytes

/-- The record of an error that a write raises is that of the state before the write. -/
theorem State.abort_devWrite_failedWith (f : List Byte) (e : PrintError) (s : State) :
    FailedWith s ((s.devWrite f).abort e) e.code e.info :=
  { (s.devWrite f).abort_failedWith e with
    inputs := ((sameInputs_devWrite f s).trans (sameInputs_abort e _)).keepsInputs }

/-- A failed write puts on the link the first bytes of its frame, then those of the reset frame where the error needs
it; each frame is one call. -/
theorem State.abort_devWrite_sent (f : List Byte) (e : PrintError) (s : State) :
    ∃ d r, d <+: f ∧ r <+: s.params.wire.initBytes
      ∧ ((s.devWrite f).abort e).env.txLog = s.env.txLog ++ d ++ r
      ∧ if needsReset s.params.cfg e s.ctl.jobState then
          ((s.devWrite f).abort e).env.calls = s.env.calls
            ++ [.write f s.job.timeout, .write s.params.wire.initBytes s.job.timeout]
        else r = [] ∧ ((s.devWrite f).abort e).env.calls = s.env.calls ++ [.write f s.job.timeout] := by
  by_cases hreset : needsReset s.params.cfg e s.ctl.jobState = true
  · refine ⟨_, _, appendedBytes_prefix f s.nextWrite, appendedBytes_prefix _ (s.devWrite f).nextWrite, ?_, ?_⟩
    all_goals simp [hreset, frameInit]
  · refine ⟨_, [], appendedBytes_prefix f s.nextWrite, List.nil_prefix, ?_, ?_⟩
    all_goals simp [hreset]

end Sys2Proof.Machine
end

section
/-! PROOFS. Sending: the core's step by the frame it sends, and the three answers of LINK (44_protocol_encoder.md R177,
R178, R180). -/

namespace Sys2Proof.Machine

theorem exec_statusOp_of_nextRead {s : State} {b : List Byte} (h : s.nextRead s.params.wire.statusLen = .ok b) :
    exec .statusOp s = exec (.status b) s := by
  simp only [exec, execStatusOp, execStatus, State.readStatus, h, List.take_of_length_le (State.nextRead_length h)]

/-- Settles O11: the step runs `TX`, `STATREQ.op` or `STATUS.op`, which is the instruction of the frame it sends or of
the reply it receives. -/
theorem stepRunsLinkFrames : Obligations.StepRunsLinkFrames := by
  intro s he hc
  have hrun {i : Instr} {j : JobState} (hj : s.ctl.jobState = j) (hb : j.busy = true)
      (hi : decodePosition s.position = .ok i) : step s = exec i s.popEvent :=
    step_of_decodePosition he ((State.busy_of_jobState hj).trans hb) hc hi
  refine ⟨fun hj f i hf hi hne => ?_, fun hj haw => ?_, fun hj haw b i hread hi => ?_⟩
  · have htx : decodePosition s.position = .ok .tx := by rw [decodePosition_position, hj]
    rw [hrun hj rfl htx]
    exact exec_tx_of_encode_frame (s := s.popEvent) hf (frameHasOneEncoding _ _ _ hi) hne
  · have hop : decodePosition s.position = .ok .statreqOp := by rw [decodePosition_position, hj, haw]; rfl
    rw [hrun hj rfl hop, exec_statusRequest (.inl rfl), exec_statusRequest (.inr rfl)]
  · have hop : decodePosition s.position = .ok .statusOp := by rw [decodePosition_position, hj, haw]; rfl
    obtain rfl := decode_reply_eq_ok hi
    rw [hrun hj rfl hop]
    exact exec_statusOp_of_nextRead (s := s.popEvent) hread

/-- Settles O41: one `DevWrite` of the frame, then the advance of `FRAME_IDX`. -/
theorem frameAccepted : Obligations.FrameAccepted := by
  intro s i f hsent hop hframe hok
  have hexec : exec i s = .next (s.devWrite f).frameSent := by
    rw [exec_of_sentFrame hsent hop hframe, transmit_of_ok hok]
  refine ⟨_, hexec, ?_, by simp, by simp, by simp, State.frameSent_ctl _,
    State.frameSent_buf_of_ne (s := s.devWrite f), State.frameSent_buf_of_eq (s := s.devWrite f), by simp, by simp,
    (exec_sameInputs hexec).keepsInputs⟩
  rw [State.frameSent_txLog, State.devWrite_txLog_of_ok hok]

/-- Settles O42: one `DevWrite` of the StatusRequest frame, then `AW_SUB`. -/
theorem statusRequestAccepted : Obligations.StatusRequestAccepted := by
  intro s i hi hok
  have hexec := exec_statusRequest hi s
  rw [requestStatus_of_ok hok] at hexec
  exact ⟨_, hexec, State.devWrite_txLog_of_ok hok _, rfl, rfl, rfl, rfl, rfl, rfl, rfl,
    (exec_sameInputs hexec).keepsInputs⟩

/-- Settles O43: both errors by the lemmas on an aborted write; a timeout always needs the reset frame. -/
theorem failedWriteEndsTheJob : Obligations.FailedWriteEndsTheJob := by
  intro s i f hsent
  constructor
  · intro code delivered hw
    exact ⟨_, exec_of_write_ioError hsent hw, State.abort_devWrite_failedWith f _ s,
      State.abort_sameStatus (s.devWrite f) _, State.abort_devWrite_sent f (.ioError code) s⟩
  · intro delivered hw
    obtain ⟨d, r, hd, hr, hlog, hcalls⟩ := State.abort_devWrite_sent f .deviceTimeout s
    exact ⟨_, exec_of_write_timeout hsent hw, State.abort_devWrite_failedWith f _ s,
      State.abort_sameStatus (s.devWrite f) _, d, r, hd, hr, hlog, (if_pos rfl).mp hcalls⟩

end Sys2Proof.Machine
end

section
/-! SUPPORT. What an instruction that receives a status reply does, by LINK's answer to the read and by the verdict on
the burst (45_protocol_decoder.md R190 to R200), and what an abort sends (60_exceptions.md R246, R247). -/

namespace Sys2Proof.Machine

/-! ## The verdict on a burst (45_protocol_decoder.md R191, R192, R199) -/

/-- The state in which the parser ends on a burst: the length test, then the check test. -/
def replyVerdict (w : Wire) (burst : List Byte) : RxState :=
  if burst.length < w.statusLen then .short else if w.statusCheck.holds burst then .ok else .badCheck

section
variable {w : Wire} {b : List Byte}

theorem replyVerdict_eq_short_iff : replyVerdict w b = .short ↔ b.length < w.statusLen := by
  unfold replyVerdict
  split_ifs <;> simp_all

theorem replyVerdict_eq_ok_iff :
    replyVerdict w b = .ok ↔ w.statusLen ≤ b.length ∧ w.statusCheck.holds b = true := by
  unfold replyVerdict
  split_ifs <;> simp_all

theorem replyVerdict_of_malformed (h : b.length < w.statusLen ∨ w.statusCheck.holds b = false) :
    replyVerdict w b = if b.length < w.statusLen then .short else .badCheck := by
  unfold replyVerdict
  split_ifs <;> simp_all

end

/-! ## The parser, byte by byte (45_protocol_decoder.md R199) -/

/-- The parser collects every byte while the count asked for is not exceeded. -/
theorem Parser.foldl_byte {w : Wire} {b : List Byte} {p : Parser} (h : p.cnt + b.length ≤ w.statusLen) :
    b.foldl (Parser.byte w) p = ⟨p.state, p.cnt + b.length, p.buf ++ b⟩ := by
  induction b generalizing p with
  | nil => simp
  | cons v b ih =>
    rw [List.length_cons] at h
    have hbyte : Parser.byte w p v = ⟨p.state, p.cnt + 1, p.buf ++ [v]⟩ := if_pos (by omega)
    rw [List.foldl_cons, hbyte, ih (by dsimp only; omega)]
    simp [Nat.add_assoc, Nat.add_comm]

theorem parseBurst_eq {w : Wire} {b : List Byte} (h : b.length ≤ w.statusLen) :
    parseBurst w b = ⟨replyVerdict w b, b.length, b⟩ := by
  have hcollect : b.foldl (Parser.byte w) Parser.start = ⟨.collect, b.length, b⟩ :=
    (Parser.foldl_byte (by simpa [Parser.start] using h)).trans (by simp [Parser.start])
  rw [parseBurst, hcollect, Parser.finish, replyVerdict]
  split_ifs <;> rfl

/-! ## What the core does with a burst -/

/-- The parser's registers after a burst. -/
def State.parsed (b : List Byte) (s : State) : State :=
  { s with
    buf := { s.buf with rxbuf := b }
    ser := { s.ser with rxCnt := b.length, rxState := replyVerdict s.params.wire b } }

/-- The status registers after a burst that is decoded. -/
def State.decoded (b : List Byte) (s : State) : State :=
  { s.parsed b with
    res := { s.res with stFrame := decodeStatus s.params.wire b, stRaw := b, stValid := true } }

section
variable {s : State} {b : List Byte}

theorem State.receiveReply_of_not_ok (h : replyVerdict s.params.wire b ≠ .ok) :
    s.receiveReply b = (s.parsed b).abort .malformedStatus := by
  by_cases hshort : b.length < s.params.wire.statusLen
  · simp only [State.receiveReply, State.parsed, if_pos hshort, replyVerdict_eq_short_iff.2 hshort]
  · have hcheck : s.params.wire.statusCheck.holds b = false :=
      Bool.eq_false_iff.2 fun hc => h (replyVerdict_eq_ok_iff.2 ⟨Nat.not_lt.1 hshort, hc⟩)
    simp only [State.receiveReply, State.parsed, if_neg hshort, if_pos hcheck, replyVerdict_of_malformed (.inr hcheck)]

theorem State.receiveReply_of_ok (h : replyVerdict s.params.wire b = .ok) :
    s.receiveReply b =
      if (decodeStatus s.params.wire b).flags.any then
        (s.decoded b).abort (.deviceReportedFault (decodeStatus s.params.wire b).flags)
      else (s.decoded b).enterDone := by
  obtain ⟨hlen, hcheck⟩ := replyVerdict_eq_ok_iff.1 h
  simp only [State.receiveReply, State.decoded, State.parsed, h, if_neg (Nat.not_lt.2 hlen), hcheck, Bool.true_eq_false,
    if_false]

@[simp] theorem State.abort_rxState (e : PrintError) (s : State) : (s.abort e).ser.rxState = s.ser.rxState := by
  unfold State.abort State.resetFrame
  split <;> rfl

/-- The functional form reports the verdict in `RX_STATE`, however the job ends. -/
theorem State.receiveReply_rxState (b : List Byte) (s : State) :
    (s.receiveReply b).ser.rxState = replyVerdict s.params.wire b := by
  by_cases h : replyVerdict s.params.wire b = .ok
  · rw [State.receiveReply_of_ok h]
    split
    · exact State.abort_rxState _ _
    · rfl
  · rw [State.receiveReply_of_not_ok h]
    exact State.abort_rxState _ _

end

/-! ## The read (45_protocol_decoder.md R190) -/

/-- The one `DevRead` of a job has been made. -/
def State.startRead (s : State) : State := s.startParser.devRead s.params.wire.statusLen

theorem exec_of_receivedReply {s : State} {i : Instr} {b : List Byte} (h : s.receivedReply i = some b) :
    exec i s = .next (s.startRead.receiveReply b) := by
  cases i with
  | status reply => cases h; rfl
  | statusOp =>
    obtain ⟨b', hread, -, ht⟩ | ⟨_, hread, -⟩ | ⟨hread, -⟩ := State.readStatus_cases s
    all_goals
      rw [State.receivedReply, hread] at h
      cases h
    exact congrArg Host.Outcome.next ht
  | scale | gamma | dither | pack | encode | tx | statreqOp | start | cancel | clrBusy | init | media | raster | print
  | statreq => cases h

theorem exec_statusOp_of_ioError {s : State} {code : Word}
    (h : s.nextRead s.params.wire.statusLen = .ioError code) :
    exec .statusOp s = .next (s.startRead.abort (.ioError code)) := by
  simp only [exec, execStatusOp, State.readStatus, h, State.startRead]

theorem exec_statusOp_of_timeout {s : State} (h : s.nextRead s.params.wire.statusLen = .timeout) :
    exec .statusOp s = .next (s.startRead.abort .deviceTimeout) := by
  simp only [exec, execStatusOp, State.readStatus, h, State.startRead]

/-! ## What an abort sends (60_exceptions.md R246, R247) -/

/-- An abort puts on the link the first bytes of the reset frame where the error needs it, and nothing else. -/
theorem State.abort_sent (e : PrintError) (s : State) :
    ∃ r, r <+: s.params.wire.initBytes ∧ (s.abort e).env.txLog = s.env.txLog ++ r
      ∧ (needsReset s.params.cfg e s.ctl.jobState = false → r = []) := by
  by_cases hreset : needsReset s.params.cfg e s.ctl.jobState = true
  · exact ⟨_, appendedBytes_prefix _ s.nextWrite, by simp [hreset, frameInit], by simp [hreset]⟩
  · exact ⟨[], List.nil_prefix, by simp [hreset], fun _ => rfl⟩

/-! ## The error flags as numbers (10_state.md R26, R27) -/

/-- Bits [14:10] of `ST_FRAME` are the flags as `ERR_INFO` has them. -/
theorem StFrame.word_flags (f : StFrame) :
    f.word >>> 10 &&& 0x1F#32 = (PrintError.deviceReportedFault f.flags).info := by
  refine BitVec.eq_of_getLsbD_eq fun i hi => ?_
  simp only [StFrame.word, PrintError.info, BitVec.getLsbD_and, BitVec.getLsbD_ushiftRight, BitVec.getLsbD_append]
  interval_cases i <;> simp

/-- Each flag stands in `ERR_INFO` at its own bit. -/
theorem PrintError.info_deviceReportedFault (f : ErrFlags) : (PrintError.deviceReportedFault f).info =
    (if f.noMedia then 1 else 0) + (if f.coverOpen then 2 else 0) + (if f.paperJam then 4 else 0)
      + (if f.unrecoverable then 8 else 0) + (if f.unrecognized then 16 else 0) := by
  obtain ⟨noMedia, coverOpen, paperJam, unrecoverable, unrecognized⟩ := f
  revert noMedia coverOpen paperJam unrecoverable unrecognized
  decide

/-- Bits [14:10] of `ST_FRAME`, where it is valid, are the flags of the frame it holds. -/
theorem State.readRegister_stFrame_flags {s : State} (h : s.res.stValid = true) :
    s.readRegister 0x05 >>> 10 &&& 0x1F#32 = (PrintError.deviceReportedFault s.res.stFrame.flags).info := by
  rw [State.readRegister, State.stFrameWord, if_pos h, StFrame.word_flags]

/-! ## The fields of a synthetic reply (45_protocol_decoder.md R201) -/

/-- Every position of `ERR_MAP` is a bit of an error-flags byte (30_encoding.md R87). -/
theorem paramsWire_errMap_bounds (p : Params) :
    ∀ pos ∈ p.wire.errMap, pos.idx < p.wire.offErr.length ∧ pos.bit < 8 := by
  have h := p.wire_ok
  simp only [Wire.check, Bool.and_eq_true, List.all_eq_true, decide_eq_true_eq, and_assoc] at h
  obtain ⟨-, -, -, -, -, -, -, -, -, -, -, -, herr, -⟩ := h
  exact herr

section
variable {w : Wire} {reply : List Byte} {flags : FlagPos → Bool}
  (hbits : ∀ i n, i < w.offErr.length → n < 8 →
    (replyByte reply (w.offErr.getD i 0)).getLsbD n = (decide (⟨i, n⟩ ∈ w.errMap) && flags ⟨i, n⟩))
include hbits

theorem errBit_of_mem_errMap {pos : FlagPos} (hmem : pos ∈ w.errMap) (hidx : pos.idx < w.offErr.length)
    (hbit : pos.bit < 8) : errBit w reply pos = flags pos := by
  rw [errBit, hbits _ _ hidx hbit, decide_eq_true hmem, Bool.true_and]

theorem unknownErrBit_eq_false : unknownErrBit w reply = false := by
  rw [unknownErrBit, List.any_eq_false]
  intro i hi
  rw [Bool.not_eq_true, List.any_eq_false]
  intro n hn
  rw [errBit, hbits i n (List.mem_range.1 hi) (List.mem_range.1 hn)]
  by_cases hmem : (⟨i, n⟩ : FlagPos) ∈ w.errMap <;> simp [hmem]

end

theorem phaseOf_of_lookup {w : Wire} {b : Byte} {phase : Phase} (h : w.phaseMap.lookup b = some phase) :
    phaseOf w b = (phase, false) := by
  rw [phaseOf, h]

end Sys2Proof.Machine
end

section
/-! PROOFS. The status reply: the three verdicts on a burst, a failed read, the byte-serial parser, and the decoding of
a synthetic reply (45_protocol_decoder.md R190 to R201). -/

namespace Sys2Proof.Machine

/-- Settles O45: the burst is decoded and, no flag being set, the job enters `Done`. -/
theorem goodReplyEndsInDone : Obligations.GoodReplyEndsInDone := by
  intro s i b hreply hlen hcheck hflags
  have hok : replyVerdict s.params.wire b = .ok := replyVerdict_eq_ok_iff.2 ⟨hlen.ge, hcheck⟩
  have hexec : exec i s = .next (s.startRead.decoded b).enterDone := by
    rw [exec_of_receivedReply hreply, State.receiveReply_of_ok (s := s.startRead) hok]
    exact congrArg Host.Outcome.next (if_neg (hflags ▸ nofun))
  refine ⟨_, hexec, rfl, rfl, rfl, fun _ => rfl, rfl, rfl, rfl, ?_, (exec_sameInputs hexec).keepsInputs⟩
  exact congrArg (fun v => { s.ser with rxState := v, rxCnt := b.length }) hok

/-- Settles O46: the burst is decoded before the error is raised, and `DeviceReportedFault` needs no reset frame. -/
theorem faultReplyIsReported : Obligations.FaultReplyIsReported := by
  intro s i b hreply hlen hcheck f hany
  have hok : replyVerdict s.params.wire b = .ok := replyVerdict_eq_ok_iff.2 ⟨hlen.ge, hcheck⟩
  have hexec : exec i s = .next ((s.startRead.decoded b).abort (.deviceReportedFault f)) := by
    rw [exec_of_receivedReply hreply, State.receiveReply_of_ok (s := s.startRead) hok]
    exact congrArg Host.Outcome.next (if_pos hany)
  obtain ⟨hvalid, hframe, hraw⟩ := (s.startRead.decoded b).abort_sameStatus (.deviceReportedFault f)
  obtain ⟨hlog, hcalls⟩ := State.abort_nothingSent (s := s.startRead.decoded b) (e := .deviceReportedFault f) rfl
  have hfailed := (s.startRead.decoded b).abort_failedWith (.deviceReportedFault f)
  refine ⟨_, hexec, ?_, ?_, hvalid, hframe, fun j => ?_, hlog, hcalls⟩
  · rw [State.readRegister_stFrame_flags hvalid, hframe]
    exact { hfailed with inputs := (exec_sameInputs hexec).keepsInputs }
  · exact hfailed.errInfo.trans (PrintError.info_deviceReportedFault f)
  · rw [State.stRawCell, hvalid, hraw]
    rfl

/-- Settles O48: both errors by what an abort sends; a timeout always needs the reset frame. -/
theorem failedReadEndsTheJob : Obligations.FailedReadEndsTheJob := by
  intro s read reset
  constructor
  · intro code hread
    have hexec := exec_statusOp_of_ioError hread
    obtain ⟨r, hr, hlog, hnone⟩ := s.startRead.abort_sent (.ioError code)
    refine ⟨_, hexec,
      { s.startRead.abort_failedWith (.ioError code) with inputs := (exec_sameInputs hexec).keepsInputs },
      s.startRead.abort_sameStatus _, ?_, r, hr, hlog, hnone⟩
    rw [State.abort_calls]
    cases hcfg : s.params.cfg.resetOnIoError
    all_goals simp [State.startRead, needsReset, hcfg, read, reset, frameInit]
  · intro hread
    have hexec := exec_statusOp_of_timeout hread
    obtain ⟨r, hr, hlog, -⟩ := s.startRead.abort_sent .deviceTimeout
    refine ⟨_, hexec,
      { s.startRead.abort_failedWith .deviceTimeout with inputs := (exec_sameInputs hexec).keepsInputs },
      s.startRead.abort_sameStatus _, ?_, r, hr, hlog⟩
    rw [State.abort_calls]
    simp [State.startRead, needsReset, read, reset, frameInit]

/-- Settles O47: the verdict is not `RX_OK`, and `MalformedStatus` needs no reset frame. -/
theorem malformedReplyIsReported : Obligations.MalformedReplyIsReported := by
  intro s i b hreply hbad
  have hverdict := replyVerdict_of_malformed hbad
  have hne : replyVerdict s.params.wire b ≠ .ok := by
    rw [hverdict]
    split <;> exact nofun
  have hexec : exec i s = .next ((s.startRead.parsed b).abort .malformedStatus) := by
    rw [exec_of_receivedReply hreply, State.receiveReply_of_not_ok (s := s.startRead) hne]
  obtain ⟨hlog, hcalls⟩ := State.abort_nothingSent (s := s.startRead.parsed b) (e := .malformedStatus) rfl
  exact ⟨_, hexec,
    { (s.startRead.parsed b).abort_failedWith .malformedStatus with inputs := (exec_sameInputs hexec).keepsInputs },
    (s.startRead.parsed b).abort_sameStatus _, hlog, hcalls, (State.abort_rxState _ _).trans hverdict⟩

/-- Settles O51: the parser and the functional form both end in the verdict on the burst. -/
theorem serialParserAgrees : Obligations.SerialParserAgrees := by
  intro s b hlen
  rw [parseBurst_eq hlen, State.receiveReply_rxState]
  refine ⟨rfl, rfl, rfl, replyVerdict_eq_short_iff, replyVerdict_eq_ok_iff.trans ?_⟩
  rw [hlen.ge_iff_eq', eq_comm]

/-- Settles O50: a bit of an error-flags byte is that of its flag at a position of `ERR_MAP`, and clear elsewhere. -/
theorem syntheticReplyRoundTrip : Obligations.SyntheticReplyRoundTrip := by
  intro p reply width type flags phase w _ _ hwidth htype hbits hphase
  have hflag (pos : FlagPos) (hmem : pos ∈ w.errMap) : errBit w reply pos = flags pos :=
    have ⟨hidx, hbit⟩ := paramsWire_errMap_bounds p pos hmem
    errBit_of_mem_errMap hbits hmem hidx hbit
  rw [decodeStatus, phaseOf_of_lookup hphase, unknownErrBit_eq_false hbits, hwidth, typeOf, htype,
    hflag w.noMedia (by simp [Wire.errMap]), hflag w.coverOpen (by simp [Wire.errMap]),
    hflag w.paperJam (by simp [Wire.errMap]), hflag w.unrecoverable (by simp [Wire.errMap])]
  rfl

end Sys2Proof.Machine
end

section
/-! SUPPORT. The host commands (46_job_fsm.md R211 to R215): one equation for each, what each does to `STATUS`, and what
a write to `CTRL` does as a whole. -/

namespace Sys2Proof.Machine

/-! ## The commands one by one -/

theorem exec_start_of_busy {s : State} (hb : s.busy = true) :
    exec .start s = .next { s with ctl := { s.ctl with busyReject := true } } :=
  congrArg Host.Outcome.next (if_pos hb)

theorem exec_start_of_not_busy {s : State} (hb : s.busy = false) : exec .start s = .next s.rearm :=
  congrArg Host.Outcome.next (if_neg (by simp [hb]))

/-- `CANCEL` is latched exactly while the core is busy. -/
theorem exec_cancel (s : State) :
    exec .cancel s = .next { s with ctl := { s.ctl with cancelPend := s.ctl.cancelPend || s.busy } } := by
  simp only [exec, execCancel]
  cases hb : s.busy <;> simp

theorem exec_clrBusy (s : State) :
    exec .clrBusy s = .next { s with ctl := { s.ctl with busyReject := false } } := rfl

/-! ## The flags in `STATUS` (10_state.md R23) -/

theorem statusWord_set_busyReject (s : State) :
    State.statusWord { s with ctl := { s.ctl with busyReject := true } } = s.statusWord ||| 0x40 := by
  refine BitVec.eq_of_getLsbD_eq fun i hi => ?_
  simp only [State.statusWord, BitVec.getLsbD_or, BitVec.getLsbD_append]
  interval_cases i <;> simp

theorem statusWord_clear_busyReject (s : State) :
    State.statusWord { s with ctl := { s.ctl with busyReject := false } } = s.statusWord &&& ~~~0x40#32 := by
  refine BitVec.eq_of_getLsbD_eq fun i hi => ?_
  simp only [State.statusWord, BitVec.getLsbD_and, BitVec.getLsbD_append]
  interval_cases i <;> simp

theorem statusWord_set_cancelPend (s : State) :
    State.statusWord { s with ctl := { s.ctl with cancelPend := true } } = s.statusWord ||| 0x20 := by
  refine BitVec.eq_of_getLsbD_eq fun i hi => ?_
  simp only [State.statusWord, BitVec.getLsbD_or, BitVec.getLsbD_append]
  interval_cases i <;> simp

/-- `STATUS` right after an accepted `START`: `Scaling`, the handle owned, and the sticky flag as it was. -/
theorem statusWord_rearm (s : State) : s.rearm.statusWord = if s.ctl.busyReject then 0x51 else 0x11 := by
  simp only [State.statusWord, State.rearm_ctl, State.rearm_res, Result.reset, JobState.code]
  cases s.ctl.busyReject <;> rfl

/-! ## A write to `CTRL` -/

theorem execAll_append {is js : List Instr} {s t : State} (h : execAll is s = .next t) :
    execAll (is ++ js) s = execAll js t := by
  induction is generalizing s with
  | nil =>
    cases h
    rfl
  | cons i is ih =>
    rw [List.cons_append]
    rw [execAll] at h ⊢
    cases hi : exec i s with
    | next u =>
      rw [hi] at h
      exact ih h
    | fault r => rw [hi] at h; cases h
    | refused r => rw [hi] at h; cases h

theorem execAll_clrBusy_if (b : Bool) (s : State) :
    execAll (if b then [.clrBusy] else []) s
      = .next { s with ctl := { s.ctl with busyReject := s.ctl.busyReject && !b } } := by
  cases b
  · simp [execAll]
  · simp [execAll, exec_clrBusy]

theorem execAll_cancel_if (b : Bool) (s : State) :
    execAll (if b then [.cancel] else []) s
      = .next { s with ctl := { s.ctl with cancelPend := s.ctl.cancelPend || (b && s.busy) } } := by
  cases b
  · simp [execAll]
  · simp [execAll, exec_cancel]

/-- The flags after bits 2 and 1 of a value written to `CTRL` (46_job_fsm.md R211, R214, R215). -/
def State.withCtrlFlags (v : Word) (s : State) : State :=
  { s with ctl := { s.ctl with
      busyReject := s.ctl.busyReject && !v.getLsbD 2
      cancelPend := s.ctl.cancelPend || (v.getLsbD 1 && s.busy) } }

/-- `CLR_BUSY` and `CANCEL` come first, `START` last (46_job_fsm.md R211). -/
theorem execAll_decodeCtrl_eq (v : Word) (s : State) :
    execAll (decodeCtrl v) s = execAll (if v.getLsbD 0 then [.start] else []) (s.withCtrlFlags v) := by
  rw [decodeCtrl, List.append_assoc, execAll_append (execAll_clrBusy_if _ _), execAll_append (execAll_cancel_if _ _)]
  rfl

theorem execAll_decodeCtrl_of_no_start {v : Word} (hv : v.getLsbD 0 = false) (s : State) :
    execAll (decodeCtrl v) s = .next (s.withCtrlFlags v) := by
  rw [execAll_decodeCtrl_eq, hv]
  rfl

theorem execAll_decodeCtrl_of_start {v : Word} (hv : v.getLsbD 0 = true) (s : State) :
    execAll (decodeCtrl v) s = exec .start (s.withCtrlFlags v) := by
  rw [execAll_decodeCtrl_eq, hv]
  exact execAll_singleton _ _

theorem execAll_decodeCtrl_of_busy {s : State} (hb : s.busy = true) (v : Word) :
    execAll (decodeCtrl v) s = .next { s with ctl := { s.ctl with
      busyReject := (s.ctl.busyReject && !v.getLsbD 2) || v.getLsbD 0
      cancelPend := s.ctl.cancelPend || v.getLsbD 1 } } := by
  cases hv : v.getLsbD 0
  · rw [execAll_decodeCtrl_of_no_start hv]
    simp [State.withCtrlFlags, hb]
  · rw [execAll_decodeCtrl_of_start hv, exec_start_of_busy (s := s.withCtrlFlags v) hb]
    simp [State.withCtrlFlags, hb]

/-- The host's write of `START` alone, as `print` makes it (30_encoding.md R101). -/
theorem perform_writeStart (s : State) : perform (.writeReg 0x00 1) s = exec .start s := by
  rw [perform, if_pos rfl, show decodeCtrl 1 = [.start] by decide, execAll_singleton]

end Sys2Proof.Machine
end

section
/-! PROOFS. The statements about the host commands (46_job_fsm.md R211 to R215). -/

namespace Sys2Proof.Machine

/-- Settles O12: a re-armed core reads as its cleared results and its control position say. -/
theorem startAccepted : Obligations.StartAccepted := by
  intro s hb
  refine ⟨s.rearm, exec_start_of_not_busy hb, ?_, statusWord_rearm s, stRawCell_of_not_valid rfl, rfl, rfl,
    ⟨fun _ => rfl, fun _ => rfl⟩⟩
  simp only [List.forall_mem_cons]
  refine ⟨rfl, ?_, rfl, rfl, rfl, rfl, fun _ h => nomatch h⟩
  simp [State.readRegister, State.errWord, Result.reset]

/-- Settles O13: the call that wrote `START` returns at once, and one that waits only reads `STATUS`. -/
theorem startRejectedWhileBusy : Obligations.StartRejectedWhileBusy := by
  intro s hb
  have hstart := exec_start_of_busy hb
  refine ⟨_, hstart, statusWord_set_busyReject s, rfl, ⟨fun _ => rfl, fun _ => rfl⟩, fun c hc => ?_, fun c hc hw => ?_⟩
  · have hturn : c.access s = some (.writeReg 0x00 1) ∧ c.advance s = .returned .printerBusy := by
      obtain hc | ⟨hc, hw⟩ := hc
      · simp [PrintCall.access, PrintCall.advance, hc, hb]
      · simp [PrintCall.access, PrintCall.advance, PrintCall.takesBusy, hc, hw, hb]
    obtain ⟨haccess, hadvance⟩ := hturn
    refine ⟨.printerBusy, ?_, rfl⟩
    rw [printTurn_call haccess ((perform_writeStart s).trans hstart), hadvance]
  · rw [printTurn_wait hc (by simp [PrintCall.takesBusy, hw]), if_pos hb, ← hc]
    rfl

/-- Settles O14: `CANCEL_PEND` is set if the core is busy and stays as it was otherwise. -/
theorem cancelLatchedOnlyWhileBusy : Obligations.CancelLatchedOnlyWhileBusy := by
  intro s
  refine ⟨_, exec_cancel s, ?_, rfl, ⟨fun _ => rfl, fun _ => rfl⟩⟩
  cases s.busy
  · simp only [Bool.or_false]
    rfl
  · simp only [Bool.or_true]
    exact statusWord_set_cancelPend s

/-- Settles O15: the flag is cleared, whatever the state. -/
theorem clrBusyClearsTheFlag : Obligations.ClrBusyClearsTheFlag :=
  fun s => ⟨_, exec_clrBusy s, statusWord_clear_busyReject s, rfl, ⟨fun _ => rfl, fun _ => rfl⟩⟩

/-- Settles O10: the flags first, then `START`, which a core that is not busy accepts. -/
theorem ctrlWriteOrder : Obligations.CtrlWriteOrder := by
  intro s v he reject
  have hstep : step s = execAll (decodeCtrl v) s.popEvent := by rw [step_of_nextEvent he, perform, if_pos rfl]
  rw [hstep]
  refine ⟨fun hb => execAll_decodeCtrl_of_busy (s := s.popEvent) hb v, fun hb hv => ?_, fun hb hv => ?_⟩
  · have hpop : s.popEvent.busy = false := hb
    rw [execAll_decodeCtrl_of_no_start hv]
    simp [State.withCtrlFlags, hpop, reject]
  · refine ⟨(s.popEvent.withCtrlFlags v).rearm, ?_, ⟨rfl, rfl, ⟨fun _ => rfl, fun _ => rfl⟩, rfl, rfl⟩, ⟨rfl, rfl⟩, rfl⟩
    rw [execAll_decodeCtrl_of_start hv]
    exact exec_start_of_not_busy (s := s.popEvent.withCtrlFlags v) hb

end Sys2Proof.Machine
end

section
/-! SUPPORT. What the registers read as numbers, field by field (10_state.md R21 to R33), and that a host read changes
none of them. -/

namespace Sys2Proof.Machine

/-! ## Registers made of fields -/

/-- A field stands above the fields appended below it. -/
theorem toNat_append_eq_add {m n : Nat} (x : BitVec m) (y : BitVec n) :
    (x ++ y).toNat = 2 ^ n * x.toNat + y.toNat := by
  rw [BitVec.toNat_append, Nat.shiftLeft_eq, Nat.mul_comm, Nat.two_pow_add_eq_or_of_lt y.isLt]

theorem toNat_statusWord (s : State) : s.statusWord.toNat =
    s.ctl.jobState.code.toNat + 16 * s.ctl.devOwn.toNat + 32 * s.ctl.cancelPend.toNat + 64 * s.ctl.busyReject.toNat
      + 128 * s.res.stValid.toNat := by
  simp only [State.statusWord, toNat_append_eq_add, BitVec.toNat_ofBool, BitVec.toNat_ofNat]
  omega

theorem toNat_errWord (s : State) : s.errWord.toNat = s.res.errCode.toNat + 256 * s.res.errStage.toNat := by
  simp only [State.errWord, toNat_append_eq_add, BitVec.toNat_ofNat]
  omega

theorem StFrame.toNat_word (f : StFrame) : f.word.toNat =
    f.mediaWidthMm.toNat + 2 ^ 8 * (mediaTypeCode f.mediaType).toNat
      + 2 ^ 10 * f.flags.noMedia.toNat + 2 ^ 11 * f.flags.coverOpen.toNat + 2 ^ 12 * f.flags.paperJam.toNat
      + 2 ^ 13 * f.flags.unrecoverable.toNat + 2 ^ 14 * f.flags.unrecognized.toNat
      + 2 ^ 16 * (phaseCode f.phase).toNat := by
  simp only [StFrame.word, ErrFlags.bits, toNat_append_eq_add, BitVec.toNat_ofBool, BitVec.toNat_ofNat]
  omega

theorem Job.toNat_cfgWord (j : Job) : j.cfgWord.toNat =
    j.fitMode.code.toNat + 4 * j.align.bit.toNat + 256 * j.mediaId.toNat := by
  simp only [Job.cfgWord, toNat_append_eq_add, BitVec.toNat_ofBool, BitVec.toNat_ofNat]
  omega

/-- Every register, by the fields it is made of. -/
theorem registerValues (s : State) : RegisterValues s := by
  obtain ⟨-, hwidth, -, hhead, -, hlines⟩ := paramsCfg_bounds s.params
  have hbytes : s.params.cfg.bytes < 65536 := by
    unfold Cfg.bytes
    omega
  exact
    { status := by
        refine (toNat_statusWord s).trans ?_
        cases s.ctl.jobState <;> rfl
      frameIdx := rfl
      err := toNat_errWord s
      errInfo := rfl
      stFrame := by
        rw [State.readRegister, State.stFrameWord]
        split
        · rw [StFrame.toNat_word]
          cases s.res.stFrame.mediaType <;> cases s.res.stFrame.phase <;> rfl
        · rfl
      imgWidth := BitVec.toNat_setWidth_of_le (by decide)
      imgHeight := BitVec.toNat_setWidth_of_le (by decide)
      imgFmt := (BitVec.toNat_setWidth_of_le (by decide)).trans (BitVec.toNat_ofBool _)
      jobCfg := by
        refine s.job.toNat_cfgWord.trans ?_
        cases s.job.fitMode <;> cases s.job.align <;> rfl
      ditherBias := BitVec.toNat_setWidth_of_le (by decide)
      timeout := rfl
      outHeight := BitVec.toNat_setWidth_of_le (by decide)
      nLines := BitVec.toNat_setWidth_of_le (by decide)
      paramW := toNat_setWidth_ofNat (n := s.params.cfg.width) (by omega)
      paramHead := toNat_setWidth_ofNat (n := s.params.cfg.head) (by omega)
      paramMaxLines := toNat_setWidth_ofNat (n := s.params.cfg.maxLines) (by omega)
      paramBytes := toNat_setWidth_ofNat hbytes
      paramStatusLen := BitVec.toNat_setWidth_of_le (by decide) }

/-- `CTRL` and the reserved numbers read 0 (10_state.md R21). -/
theorem readRegister_of_reserved {s : State} {n : Nat}
    (hn : n ∉ [0x01, 0x02, 0x03, 0x04, 0x05, 0x06, 0x07, 0x08, 0x09, 0x0A, 0x0B, 0x0C, 0x0D, 0x10, 0x11, 0x12, 0x13,
      0x14]) :
    s.readRegister n = 0 := by
  unfold State.readRegister
  split
  all_goals simp at hn ⊢

/-- A read-only or reserved register number drops the write (10_state.md R20, R21). -/
theorem State.writeRegister_of_not_rw {n : Nat} (hn : n ∉ [0x00, 0x06, 0x07, 0x08, 0x09, 0x0A, 0x0B]) (s : State)
    (v : Word) : s.writeRegister n v = s := by
  have hjob : s.job.writeRegister n v = s.job := by
    unfold Job.writeRegister
    split
    all_goals simp at hn ⊢
  rw [State.writeRegister, hjob, ite_self]

/-- What a host read returns does not depend on what the host read before. -/
@[simp] theorem readRegister_hostReads (s : State) (v : Word) (n : Nat) :
    (s.hostReads v).readRegister n = s.readRegister n := rfl

@[simp] theorem State.hostReads_hostReads (s : State) (u v : Word) : (s.hostReads u).hostReads v = s.hostReads v := rfl

/-! ## The fields of `ERR` (10_state.md R26) -/

theorem errWord_code (s : State) : s.errWord.extractLsb' 0 8 = s.res.errCode := by
  refine BitVec.eq_of_toNat_eq ?_
  rw [BitVec.extractLsb'_toNat, toNat_errWord]
  omega

theorem errWord_stage (s : State) : s.errWord.extractLsb' 8 4 = s.res.errStage := by
  refine BitVec.eq_of_toNat_eq ?_
  rw [BitVec.extractLsb'_toNat, toNat_errWord, Nat.shiftRight_eq_div_pow]
  omega

/-! ## A call of `print` that polls (30_encoding.md R101) -/

/-- A turn that reads a register keeps what it read and moves the call to its next phase. -/
theorem printTurn_readReg {c : PrintCall} {s : State} {n : Nat} (h : c.access s = some (.readReg n)) :
    printTurn .call c s = .next ({ c with phase := c.advance s }, s.hostReads (s.readRegister n)) :=
  printTurn_call h rfl

theorem printTurn_poll {c : PrintCall} {s : State} (h : c.phase = .poll) :
    printTurn .call c s = .next ({ c with phase := s.ctl.jobState.polled }, s.hostReads (s.readRegister 0x01)) := by
  rw [printTurn_readReg (n := 0x01) (by rw [PrintCall.access, h]), PrintCall.advance, h]

theorem printTurn_takeFrame {c : PrintCall} {s : State} (h : c.phase = .takeFrame) :
    printTurn .call c s = .next ({ c with phase := .returned (.ok (s.readRegister 0x05)) },
      s.hostReads (s.readRegister 0x05)) := by
  rw [printTurn_readReg (n := 0x05) (by rw [PrintCall.access, h]), PrintCall.advance, h]

theorem printTurn_takeErr {c : PrintCall} {s : State} (h : c.phase = .takeErr) :
    printTurn .call c s = .next ({ c with phase := .takeInfo (s.readRegister 0x03) },
      s.hostReads (s.readRegister 0x03)) := by
  rw [printTurn_readReg (n := 0x03) (by rw [PrintCall.access, h]), PrintCall.advance, h]

theorem printTurn_takeInfo {c : PrintCall} {s : State} {err : Word} (h : c.phase = .takeInfo err) :
    printTurn .call c s = .next
      ({ c with phase := .returned (.failed (err.extractLsb' 0 8) (err.extractLsb' 8 4) (s.readRegister 0x04)) },
        s.hostReads (s.readRegister 0x04)) := by
  rw [printTurn_readReg (n := 0x04) (by rw [PrintCall.access, h]), PrintCall.advance, h]

theorem polled_of_not_terminal {j : JobState} (h : j ≠ .done ∧ j ≠ .failed) : j.polled = .poll := by
  obtain ⟨hdone, hfailed⟩ := h
  cases j with
  | done => exact absurd rfl hdone
  | failed => exact absurd rfl hfailed
  | _ => rfl

/-- A poll that finds `Done` returns `ST_FRAME`. -/
theorem printRun_poll_done {c : PrintCall} {s : State} (hc : c.phase = .poll) (hj : s.ctl.jobState = .done) :
    printRun [.call, .call] c s = .next
      ({ c with phase := .returned (.ok (s.readRegister 0x05)) }, s.hostReads (s.readRegister 0x05)) := by
  simp [printRun, printTurn_poll hc, hj, JobState.polled, printTurn_takeFrame]

/-- A poll that finds `Failed` returns the record. -/
theorem printRun_poll_failed {c : PrintCall} {s : State} (hc : c.phase = .poll) (hj : s.ctl.jobState = .failed) :
    printRun [.call, .call, .call] c s = .next
      ({ c with phase := .returned (.failed s.res.errCode s.res.errStage s.res.errInfo) },
        s.hostReads s.res.errInfo) := by
  have herr : s.readRegister 0x03 = s.errWord := rfl
  have hinfo : s.readRegister 0x04 = s.res.errInfo := rfl
  simp [printRun, printTurn_poll hc, hj, JobState.polled, printTurn_takeErr, printTurn_takeInfo, herr, hinfo,
    errWord_code, errWord_stage]

end Sys2Proof.Machine
end

section
/-! PROOFS. The host's reads (46_job_fsm.md R216). -/

namespace Sys2Proof.Machine

/-- Settles O20: the registers by their fields, each read as its event is performed, and a call of `print` turn by
turn. -/
theorem hostReadsChangeNothing : Obligations.HostReadsChangeNothing := by
  intro s
  refine ⟨registerValues s, fun n he => ⟨?_, readRegister_of_reserved⟩, fun i he => ?_, fun a he ha => ?_,
    fun i he hi => ?_, fun i he => ?_, fun c hc hb => ?_, fun c hc => ⟨fun hj => printRun_poll_done hc hj,
      fun hj => printRun_poll_failed hc hj, fun hj => ?_⟩, fun n v he hn => ?_⟩
  · rw [step_of_nextEvent he]
    rfl
  · rw [step_of_nextEvent he]
    rfl
  · rw [step_of_nextEvent he, perform, if_pos ha]
    rfl
  · have hcell : (s.stRawCell i).setWidth 32 = if s.res.stValid then (s.res.stRaw.getD i 0).setWidth 32 else 0 := by
      rw [State.stRawCell]
      split <;> rfl
    rw [step_of_nextEvent he, perform, if_pos (show i < s.popEvent.params.wire.statusLen from hi), ← hcell]
    rfl
  · obtain ⟨he, hi⟩ | ⟨he, hi⟩ := he
    · rw [step_of_nextEvent he, perform, if_neg (Nat.not_lt.2 hi)]
      exact ⟨_, rfl⟩
    · rw [step_of_nextEvent he, perform, if_neg (show ¬i < s.popEvent.params.wire.statusLen from Nat.not_lt.2 hi)]
      exact ⟨_, rfl⟩
  · rw [printTurn_wait hc (by simp [PrintCall.takesBusy, hb]), if_neg (by simp [hb])]
    rfl
  · rw [printTurn_poll hc, polled_of_not_terminal hj, ← hc]
    rfl
  · rw [step_of_nextEvent he, perform_writeReg (by rintro rfl; simp at hn), State.writeRegister_of_not_rw hn]

end Sys2Proof.Machine
end

section
/-! SUPPORT. What a step makes of the control position (46_job_fsm.md R217, R218): the moves of a core step, the
commands of a write to `CTRL`, and that only the core calls LINK. -/

namespace Sys2Proof.Machine

/-! ## The moves of a core step -/

/-- What a core step of a busy core can make of the control position: the transitions of 46_job_fsm.md R218, with what
each writes beside `JOB_STATE`. -/
inductive Control.CoreMove (c : Control) : Control → Prop
  /-- A pending cancellation, or an error of the operation. -/
  | fail : CoreMove c { c with jobState := .failed, devOwn := false, cancelPend := false }
  /-- `SCALE`, `GAMMA`, `DITHER` and `PACK`. -/
  | stage (j : JobState)
      (h : (c.jobState, j) ∈ [(.scaling, .correctingGamma), (.correctingGamma, .dithering), (.dithering, .packing),
        (.packing, .encoding)]) : CoreMove c { c with jobState := j }
  /-- `ENCODE`. -/
  | encode (h : c.jobState = .encoding) :
      CoreMove c { c with frameIdx := 0, awSub := false, jobState := .transferring }
  /-- `TX` of a frame, the last of the queue or not. -/
  | frame (j : JobState) (h : c.jobState = .transferring) (hj : j = .transferring ∨ j = .awaitingStatus) :
      CoreMove c { c with frameIdx := c.frameIdx + 1, jobState := j }
  /-- `STATREQ.op`. -/
  | request (h : c.jobState = .awaitingStatus) (haw : c.awSub = false) :
      CoreMove c { c with awSub := true, jobState := .awaitingStatus }
  /-- `STATUS.op` with a good reply. -/
  | done (h : c.jobState = .awaitingStatus) :
      CoreMove c { c with jobState := .done, devOwn := false, cancelPend := false }

/-- Every error leaves the control position of a failed job. -/
theorem State.coreMove_abort {s t : State} (e : PrintError) (h : t.ctl = s.ctl) :
    s.ctl.CoreMove (t.abort e).ctl := by
  rw [State.abort_ctl, h]
  exact .fail

theorem State.coreMove_scale {s : State} (hj : s.ctl.jobState = .scaling) : s.ctl.CoreMove s.scale.ctl := by
  unfold State.scale
  split
  · exact s.coreMove_abort _ rfl
  · split
    · exact s.coreMove_abort _ rfl
    · exact .stage _ (by simp [hj])

theorem State.coreMove_pack {s : State} (hj : s.ctl.jobState = .packing) : s.ctl.CoreMove s.pack.ctl := by
  unfold State.pack
  split
  · exact s.coreMove_abort _ rfl
  · exact .stage _ (by simp [hj])

theorem State.coreMove_transmit {s : State} (hj : s.ctl.jobState = .transferring) (f : List Byte) :
    s.ctl.CoreMove (s.transmit f).ctl := by
  obtain ⟨-, ht⟩ | ⟨_, _, -, ht⟩ | ⟨_, -, ht⟩ := State.transmit_cases f s
  · rw [ht, State.frameSent_ctl]
    exact .frame _ hj (ite_eq_or_eq _ _ _).symm
  · rw [ht]
    exact s.coreMove_abort _ rfl
  · rw [ht]
    exact s.coreMove_abort _ rfl

theorem State.coreMove_requestStatus {s : State} (hj : s.ctl.jobState = .awaitingStatus) (haw : s.ctl.awSub = false)
    (f : List Byte) : s.ctl.CoreMove (s.requestStatus f).ctl := by
  obtain ⟨-, ht⟩ | ⟨_, _, -, ht⟩ | ⟨_, -, ht⟩ := State.requestStatus_cases f s
  · rw [ht]
    exact .request hj haw
  · rw [ht]
    exact s.coreMove_abort _ rfl
  · rw [ht]
    exact s.coreMove_abort _ rfl

/-- Whatever the verdict on a reply is, it ends the job. -/
theorem State.coreMove_receiveReply {s t : State} (hj : s.ctl.jobState = .awaitingStatus) (h : t.ctl = s.ctl)
    (b : List Byte) : s.ctl.CoreMove (t.receiveReply b).ctl := by
  by_cases hok : replyVerdict t.params.wire b = .ok
  · rw [State.receiveReply_of_ok hok]
    split
    · exact s.coreMove_abort _ h
    · rw [State.enterDone_ctl, show (t.decoded b).ctl = s.ctl from h]
      exact .done hj
  · rw [State.receiveReply_of_not_ok hok]
    exact s.coreMove_abort _ h

theorem State.coreMove_readStatus {s : State} (hj : s.ctl.jobState = .awaitingStatus) :
    s.ctl.CoreMove s.readStatus.ctl := by
  obtain ⟨b, -, -, ht⟩ | ⟨_, -, ht⟩ | ⟨-, ht⟩ := State.readStatus_cases s
  · rw [ht]
    exact State.coreMove_receiveReply (t := s.startParser.devRead _) hj rfl b
  · rw [ht]
    exact s.coreMove_abort _ rfl
  · rw [ht]
    exact s.coreMove_abort _ rfl

/-- The operation that the control position selects makes one of the moves. -/
theorem coreMove_of_operation {s t : State} {i : Instr} (hi : decodePosition s.position = .ok i)
    (ht : exec i s = .next t) : s.ctl.CoreMove t.ctl := by
  rw [decodePosition_position] at hi
  cases hj : s.ctl.jobState <;> simp only [hj] at hi <;> cases hi
  case scaling => cases ht; exact State.coreMove_scale hj
  case correctingGamma => cases ht; exact .stage _ (by simp [hj])
  case dithering => cases ht; exact .stage _ (by simp [hj])
  case packing => cases ht; exact State.coreMove_pack hj
  case encoding => cases ht; exact .encode hj
  case transferring =>
    obtain ⟨f, -, rfl⟩ := exists_frame_of_exec_tx ht
    exact State.coreMove_transmit hj f
  case awaitingStatus =>
    split at ht
    next => cases ht; exact State.coreMove_readStatus hj
    next haw => cases ht; exact State.coreMove_requestStatus hj (Bool.eq_false_iff.2 haw) _

theorem coreMove_of_coreStep {s t : State} (hb : s.busy = true) (ht : coreStep s = .next t) :
    s.ctl.CoreMove t.ctl := by
  obtain ⟨hidle, -⟩ | ⟨-, -, rfl⟩ | ⟨-, -, i, hi, hexec⟩ := coreStep_cases ht
  · simp [hb] at hidle
  · rw [State.abort_ctl]
    exact .fail
  · exact coreMove_of_operation hi hexec

/-- A core that is not busy has no core step: it stays as it is (log entry 3). -/
theorem coreStep_of_not_busy {s : State} (hb : s.busy = false) : coreStep s = .next s := if_pos hb

/-- A core move releases the handle at the end of the job, and keeps it and the pending flag on the way. -/
theorem Control.CoreMove.ends_or_goes_on {c d : Control} (h : c.CoreMove d) :
    (d.jobState.busy = false ∧ d.devOwn = false ∧ d.cancelPend = false)
    ∨ (d.jobState.busy = true ∧ d.devOwn = c.devOwn) := by
  cases h with
  | fail | done => exact .inl ⟨rfl, rfl, rfl⟩
  | stage j h =>
    refine .inr ⟨?_, rfl⟩
    simp only [List.mem_cons, Prod.mk.injEq, List.not_mem_nil, or_false] at h
    obtain ⟨-, rfl⟩ | ⟨-, rfl⟩ | ⟨-, rfl⟩ | ⟨-, rfl⟩ := h <;> rfl
  | frame j h hj => obtain rfl | rfl := hj <;> exact .inr ⟨rfl, rfl⟩
  | encode | request => exact .inr ⟨rfl, rfl⟩

/-! ## The step -/

/-- What a step can make of the control position: a move of the core; the values of reset; a job begun by `START`; or
the flags alone, where a cancellation is latched only while the core is busy. -/
theorem step_ctl_cases {s t : State} (h : step s = .next t) :
    (s.nextEvent = .core ∧ s.busy = true ∧ s.ctl.CoreMove t.ctl)
    ∨ (s.nextEvent = .hardwareReset ∧ t.ctl = Control.reset)
    ∨ (s.busy = false ∧ (∃ v, s.nextEvent = .writeReg 0 v ∧ v.getLsbD 0 = true)
        ∧ ∃ reject, t.ctl = { s.rearm.ctl with busyReject := reject })
    ∨ (∃ pending reject, t.ctl = { s.ctl with cancelPend := pending, busyReject := reject }
        ∧ (pending = true → s.ctl.cancelPend = true ∨ s.busy = true)) := by
  have same (hctl : t.ctl = s.ctl) :
      ∃ pending reject, t.ctl = { s.ctl with cancelPend := pending, busyReject := reject }
        ∧ (pending = true → s.ctl.cancelPend = true ∨ s.busy = true) := ⟨_, _, hctl, .inl⟩
  obtain ⟨he, hcore⟩ | ⟨v, he, hctrl⟩ | ⟨n, v, -, -, rfl⟩ | ⟨⟨v, rfl⟩, -⟩ | ⟨⟨i, rfl⟩, -⟩ | ⟨i, v, -, rfl⟩
    | ⟨a, v, -, rfl⟩ | ⟨he, rfl⟩ := step_cases h
  · cases hb : s.busy with
    | true => exact .inl ⟨he, rfl, coreMove_of_coreStep (s := s.popEvent) hb hcore⟩
    | false =>
      rw [coreStep_of_not_busy (s := s.popEvent) hb] at hcore
      cases hcore
      exact hb ▸ .inr (.inr (.inr (same rfl)))
  · cases hb : s.busy with
    | true =>
      rw [execAll_decodeCtrl_of_busy (s := s.popEvent) hb] at hctrl
      cases hctrl
      exact .inr (.inr (.inr ⟨_, _, rfl, fun _ => .inr rfl⟩))
    | false =>
      have hpop : s.popEvent.busy = false := hb
      cases hv : v.getLsbD 0 with
      | true =>
        rw [execAll_decodeCtrl_of_start hv, exec_start_of_not_busy (s := s.popEvent.withCtrlFlags v) hb] at hctrl
        cases hctrl
        exact .inr (.inr (.inl ⟨rfl, ⟨v, he, hv⟩, _, rfl⟩))
      | false =>
        rw [execAll_decodeCtrl_of_no_start hv] at hctrl
        cases hctrl
        exact .inr (.inr (.inr ⟨_, _, rfl, by simp [hpop]⟩))
  · exact .inr (.inr (.inr (same (State.writeRegister_ctl ..))))
  · exact .inr (.inr (.inr (same rfl)))
  · exact .inr (.inr (.inr (same rfl)))
  · exact .inr (.inr (.inr (same (State.writeLut_ctl ..))))
  · exact .inr (.inr (.inr (same (State.writeImg_ctl ..))))
  · exact .inr (.inl ⟨he, rfl⟩)

/-- No host command touches the environment. -/
theorem env_of_writeCtrl {s t : State} {v : Word} (h : execAll (decodeCtrl v) s = .next t) : t.env = s.env := by
  refine execAll_preserves (P := fun u => u.env = s.env) (fun i hi u w hu hw => ?_) rfl h
  obtain rfl | rfl | rfl := mem_decodeCtrl hi
  · cases hw
    exact hu
  · rw [exec_cancel] at hw
    cases hw
    exact hu
  · cases hb : u.busy with
    | true => rw [exec_start_of_busy hb] at hw; cases hw; exact hu
    | false => rw [exec_start_of_not_busy hb] at hw; cases hw; exact hu

/-- A step of a core that is not busy makes no call on LINK. -/
theorem calls_eq_of_not_busy {s t : State} (hb : s.busy = false) (h : step s = .next t) :
    t.env.calls = s.env.calls := by
  suffices hpop : t.env.calls = s.popEvent.env.calls from hpop
  obtain ⟨-, hcore⟩ | ⟨v, -, hctrl⟩ | ⟨n, v, -, -, rfl⟩ | ⟨⟨v, rfl⟩, -⟩ | ⟨⟨i, rfl⟩, -⟩ | ⟨i, v, -, rfl⟩
    | ⟨a, v, -, rfl⟩ | ⟨-, rfl⟩ := step_cases h
  · rw [coreStep_of_not_busy (s := s.popEvent) hb] at hcore
    cases hcore
    rfl
  · exact congrArg Env.calls (env_of_writeCtrl hctrl)
  · exact congrArg Env.calls (State.writeRegister_env ..)
  · rfl
  · rfl
  · exact congrArg Env.calls (State.writeLut_env ..)
  · exact congrArg Env.calls (State.writeImg_env ..)
  · rfl

end Sys2Proof.Machine
end

section
/-! PROOFS. Cancellation, the handle, the transitions of `JOB_STATE`, and that a job advances (46_job_fsm.md R217 to
R221, 60_exceptions.md R244). -/

namespace Sys2Proof.Machine

/-- A cancellation needs the reset frame in `Transferring` and `AwaitingStatus` (60_exceptions.md R246). -/
theorem needsReset_cancelled_iff {c : Cfg} {j : JobState} :
    needsReset c .cancelled j = true ↔ j = .transferring ∨ j = .awaitingStatus := by
  cases j <;> simp [needsReset]

/-- The pending cancellation is taken; the abort follows (46_job_fsm.md R217). -/
def State.cancelTaken (s : State) : State := { s with ctl := { s.ctl with cancelPend := false } }

theorem State.sameInputs_cancelTaken (s : State) : s.SameInputs s.cancelTaken := by
  constructor <;> rfl

theorem coreStep_of_cancelPend {s : State} (hb : s.busy = true) (hc : s.ctl.cancelPend = true) :
    coreStep s = .next (s.cancelTaken.abort .cancelled) := by
  simp [coreStep, hb, hc, State.cancelTaken]

theorem State.cancelTaken_failedWith (s : State) : FailedWith s (s.cancelTaken.abort .cancelled) 0x51 0 :=
  { s.cancelTaken.abort_failedWith .cancelled with
    inputs := (s.sameInputs_cancelTaken.trans (State.sameInputs_abort .cancelled s.cancelTaken)).keepsInputs }

/-- Settles O52: the abort of `Cancelled`, with its reset frame in the two stages that need it. -/
theorem cancelTakenByTheNextStep : Obligations.CancelTakenByTheNextStep := by
  intro s he hb hc
  have hstep : step s = .next (s.popEvent.cancelTaken.abort .cancelled) :=
    (step_of_nextEvent he).trans (coreStep_of_cancelPend (s := s.popEvent) hb hc)
  refine ⟨_, hstep, s.popEvent.cancelTaken_failedWith, s.popEvent.cancelTaken.abort_sameStatus _, ?_⟩
  split
  next hlink =>
    obtain ⟨r, hr, hlog, -⟩ := s.popEvent.cancelTaken.abort_sent .cancelled
    have hcalls := (State.abort_calls .cancelled s.popEvent.cancelTaken).trans
      (congrArg _ (if_pos (needsReset_cancelled_iff.2 hlink)))
    exact ⟨hcalls, r, hr, hlog⟩
  next hlink =>
    exact State.abort_nothingSent (Bool.eq_false_iff.2 fun h => hlink (needsReset_cancelled_iff.1 h))

/-- Settles O54: a core move keeps the handle or releases it with the job, and `START` takes it. -/
theorem handleOwnedExactlyWhileBusy : Obligations.HandleOwnedExactlyWhileBusy := by
  intro s t h ht
  obtain ⟨hown, hpend⟩ := h
  refine ⟨?_, fun hcalls => ?_⟩
  · obtain ⟨-, hb, hmove⟩ | ⟨-, hctl⟩ | ⟨-, -, _, hctl⟩ | ⟨_, _, hctl, hcancel⟩ := step_ctl_cases ht
    · obtain ⟨hend, hrelease, hclear⟩ | ⟨hgo, hkeep⟩ := hmove.ends_or_goes_on
      · exact ⟨hrelease.trans hend.symm, by simp [hclear]⟩
      · exact ⟨hkeep.trans (hown.trans (hb.trans hgo.symm)), fun _ => hgo⟩
    · simp [HandleInv, State.busy, hctl, Control.reset, JobState.busy]
    · simp [HandleInv, State.busy, hctl, JobState.busy]
    · have hbusy : t.busy = s.busy := State.busy_of_jobState (by rw [hctl])
      rw [HandleInv, hctl, hbusy]
      exact ⟨hown, fun hp => (hcancel hp).elim hpend id⟩
  · rw [hown, ← Bool.not_eq_false]
    exact fun hb => hcalls (calls_eq_of_not_busy hb ht)

/-- A core move that changes `JOB_STATE` ends in `Failed` or goes one state along the pipeline. -/
theorem Control.CoreMove.tabled {c d : Control} (h : c.CoreMove d) (hne : d.jobState ≠ c.jobState) :
    d.jobState = .failed ∨ (c.jobState, d.jobState) ∈
      [(.scaling, .correctingGamma), (.correctingGamma, .dithering), (.dithering, .packing), (.packing, .encoding),
        (.encoding, .transferring), (.transferring, .awaitingStatus), (.awaitingStatus, .done)] := by
  cases h with
  | fail => exact .inl rfl
  | stage j h => exact .inr (List.mem_append_left _ h)
  | encode h => simp [h]
  | frame j h hj =>
    obtain rfl | rfl := hj
    · exact absurd h.symm hne
    · simp [h]
  | request h => exact absurd h.symm hne
  | done h => simp [h]

/-- Settles O55: by what the step makes of the control position. -/
theorem onlyTabledTransitions : Obligations.OnlyTabledTransitions := by
  intro s t ht hne
  obtain ⟨he, hb, hmove⟩ | ⟨he, hctl⟩ | ⟨hb, hstart, _, hctl⟩ | ⟨_, _, hctl, -⟩ := step_ctl_cases ht
  · exact .inr (.inr ⟨hb, he, hmove.tabled hne⟩)
  · exact .inl ⟨by rw [hctl]; rfl, he⟩
  · exact .inr (.inl ⟨by rw [hctl]; rfl, hb, hstart⟩)
  · exact absurd (by rw [hctl]) hne

/-- A core move within a job advances the control position, as long as `FRAME_IDX` does not wrap. -/
theorem progress_lt_of_coreMove {s t : State} (h : s.ctl.CoreMove t.ctl) (hb : t.busy = true)
    (hidx : s.ctl.frameIdx.toNat + 1 < 2 ^ 32) : s.progress < t.progress := by
  have haw := s.ctl.awSub.toNat_le
  have hbusy : t.ctl.jobState.busy = true := hb
  unfold State.progress
  generalize t.ctl = d at h hbusy
  cases h with
  | fail | done => cases hbusy
  | stage j h =>
    have hcode : j.code.toNat = s.ctl.jobState.code.toNat + 1 := by
      simp only [List.mem_cons, Prod.mk.injEq, List.not_mem_nil, or_false] at h
      obtain ⟨h, rfl⟩ | ⟨h, rfl⟩ | ⟨h, rfl⟩ | ⟨h, rfl⟩ := h <;> rw [h] <;> rfl
    dsimp only
    omega
  | encode h =>
    have hcode : JobState.transferring.code.toNat = s.ctl.jobState.code.toNat + 1 := by rw [h]; rfl
    dsimp only
    omega
  | frame j h hj =>
    have hnext : (s.ctl.frameIdx + 1).toNat = s.ctl.frameIdx.toNat + 1 := BitVec.toNat_add_of_lt hidx
    obtain rfl | rfl := hj
    · simp only [h, hnext]
      omega
    · have hcode : JobState.awaitingStatus.code.toNat = s.ctl.jobState.code.toNat + 1 := by rw [h]; rfl
      simp only [hnext]
      omega
  | request h haw => simp [h, haw]

/-- Settles O56: in a state of the invariant `FRAME_IDX` is far from its bound. -/
theorem coreStepsAdvance : Obligations.CoreStepsAdvance := by
  intro s t hinv he hb ht
  cases hend : t.busy with
  | false => exact .inl rfl
  | true =>
    have hmove : s.ctl.CoreMove t.ctl :=
      coreMove_of_coreStep (s := s.popEvent) hb ((step_of_nextEvent he).symm.trans ht)
    have hidx := hinv.frameIdx_le
    exact .inr (progress_lt_of_coreMove hmove hend (by omega))

end Sys2Proof.Machine
end

section
/-! SUPPORT. A run of a busy core, and the whole of a job that succeeds: what `SCALE`, `GAMMA`, `DITHER` and `PACK`
leave, and the frames of its queue (46_job_fsm.md R219, R223, 44_protocol_encoder.md R171). -/

namespace Sys2Proof.Machine

/-! ## Runs of a busy core -/

/-- `k` steps lead from `s` to `t`, and the core is busy before each of them. -/
structure RunsBusy (k : Nat) (s t : State) : Prop where
  run : Sys2Proof.core.run k s = .next t
  busy : ∀ j, j < k → ∃ u, Sys2Proof.core.run j s = .next u ∧ u.busy = true

theorem RunsBusy.of_step {s t : State} (hb : s.busy = true) (h : step s = .next t) : RunsBusy 1 s t where
  run := (run_one Sys2Proof.core s).trans h
  busy j hj := by
    obtain rfl : j = 0 := by omega
    exact ⟨s, rfl, hb⟩

theorem RunsBusy.trans {j k : Nat} {s t u : State} (h : RunsBusy j s t) (h' : RunsBusy k t u) :
    RunsBusy (j + k) s u where
  run := (run_add h.run k).trans h'.run
  busy i hi := by
    by_cases hij : i < j
    · exact h.busy i hij
    · obtain ⟨k', rfl⟩ := Nat.exists_eq_add_of_le (Nat.not_lt.1 hij)
      rw [run_add h.run k']
      exact h'.busy k' (by omega)

/-- The core is left to itself and no cancellation is pending. -/
structure Undisturbed (s : State) : Prop where
  schedule : s.env.schedule = []
  cancelPend : s.ctl.cancelPend = false

/-- An undisturbed core performs the operation of its control position. -/
theorem Undisturbed.runsBusy {s t : State} {i : Instr} (h : Undisturbed s) (hi : decodePosition s.position = .ok i)
    (hb : s.busy = true) (ht : exec i s = .next t) : RunsBusy 1 s t :=
  .of_step hb <| (step_of_schedule_nil h.schedule).trans <|
    (coreStep_of_not_cancelPend hb h.cancelPend hi).trans ht

/-- The core is busy while it sends its queue. -/
theorem ReadyToSend.runsBusy {s : State} (h : ReadyToSend s) :
    ∃ t, RunsBusy s.buf.txq.length s t ∧ FramesSent s t s.buf.txq.length := by
  obtain ⟨t, hrun, ht⟩ := h.run le_rfl
  refine ⟨t, ⟨hrun, fun j hj => ?_⟩, ht⟩
  obtain ⟨u, hu, hsent⟩ := h.run hj.le
  exact ⟨u, hu, State.busy_of_jobState (hsent.jobState.trans (if_neg hj.ne))⟩

/-! ## The stages before `ENCODE` -/

/-- An undisturbed core in a busy stage performs its operation, and is undisturbed after it if that latches nothing. -/
theorem Undisturbed.operation {s t : State} {i : Instr} (h : Undisturbed s) (hi : decodePosition s.position = .ok i)
    (hb : s.busy = true) (ht : exec i s = .next t) (hc : t.ctl.cancelPend = s.ctl.cancelPend) :
    RunsBusy 1 s t ∧ Undisturbed t :=
  ⟨h.runsBusy hi hb ht, (exec_sameInputs ht).schedule.trans h.schedule, hc.trans h.cancelPend⟩

/-- `u` is the state of a job, begun in `s`, whose raster of `n` lines has been packed. -/
structure RasterReady (s u : State) (n : Nat) : Prop where
  inputs : s.SameInputs u
  env : u.env = s.env
  ctl : u.ctl = { s.ctl with jobState := .encoding }
  nLines : u.res.nLines.toNat = n
  raster : u.buf.raster.length = n * s.params.cfg.bytes

theorem fittedHeight_bounds (p : Params) (w h : Nat) :
    1 ≤ fittedHeight p.cfg w h ∧ fittedHeight p.cfg w h ≤ p.cfg.maxLines := by
  obtain ⟨-, -, -, -, hmax, -⟩ := paramsCfg_bounds p
  unfold fittedHeight
  split <;> omega

section
variable {s : State} (hw : 0 < s.job.imgWidth.toNat) (hh : 0 < s.job.imgHeight.toNat)
  (hok : computedHeight s.params.cfg s.job.imgWidth.toNat s.job.imgHeight.toNat ≤ s.params.cfg.maxLines
    ∨ s.job.fitMode ≠ .rejectOversized)
include hw hh hok

/-- `SCALE` of an image that is not rejected goes on to `GAMMA`, with an image of the fitted height. -/
theorem State.scale_of_not_rejected :
    s.scale.env = s.env ∧ s.scale.ctl = { s.ctl with jobState := .correctingGamma }
      ∧ s.scale.res.outHeight.toNat = fittedHeight s.params.cfg s.job.imgWidth.toNat s.job.imgHeight.toNat := by
  obtain ⟨g, hg, hheight, -⟩ := State.exists_geometry hok
  obtain ⟨-, hle⟩ := fittedHeight_bounds s.params s.job.imgWidth.toNat s.job.imgHeight.toNat
  obtain ⟨-, -, -, -, -, hmax⟩ := paramsCfg_bounds s.params
  rw [State.scale_of_geometry hw hh hg]
  refine ⟨rfl, rfl, ?_⟩
  simp only [hheight, BitVec.toNat_ofNat]
  exact Nat.mod_eq_of_lt (by omega)

/-- The four stages take one step each. -/
theorem runsBusy_stages (hj : s.ctl.jobState = .scaling) (hs : Undisturbed s) :
    RunsBusy 4 s s.scale.gamma.dither.pack := by
  obtain ⟨-, hctl, -⟩ := State.scale_of_not_rejected hw hh hok
  have hgamma : s.scale.ctl.jobState = .correctingGamma := by rw [hctl]
  obtain ⟨hrun₁, hs₁⟩ := hs.operation (i := .scale) (by rw [decodePosition_position, hj])
    (State.busy_of_jobState hj) rfl (by rw [hctl])
  obtain ⟨hrun₂, hs₂⟩ := hs₁.operation (i := .gamma) (by rw [decodePosition_position, hgamma])
    (State.busy_of_jobState hgamma) rfl rfl
  obtain ⟨hrun₃, hs₃⟩ := hs₂.operation (i := .dither) (decodePosition_position _) rfl rfl rfl
  have hrun₄ := hs₃.runsBusy (i := .pack) (decodePosition_position _) rfl rfl
  exact ((hrun₁.trans hrun₂).trans hrun₃).trans hrun₄

variable (hfits : s.params.cfg.width ≤ s.params.cfg.head)
include hfits

/-- Under a head that is wide enough, the four stages make a raster of the fitted height (40_scaler.md R120,
43_packer.md R156). -/
theorem rasterReady_of_stages :
    RasterReady s s.scale.gamma.dither.pack
      (fittedHeight s.params.cfg s.job.imgWidth.toNat s.job.imgHeight.toNat) := by
  obtain ⟨henv, hctl, hheight⟩ := State.scale_of_not_rejected hw hh hok
  obtain ⟨-, hle⟩ := fittedHeight_bounds s.params s.job.imgWidth.toNat s.job.imgHeight.toNat
  have hparams : s.scale.gamma.dither.params = s.params := (State.sameInputs_scale s).params
  have hpack := State.pack_of_fits (s := s.scale.gamma.dither) (hparams ▸ hfits)
  have hcount : s.scale.gamma.dither.packCount =
      fittedHeight s.params.cfg s.job.imgWidth.toNat s.job.imgHeight.toNat := by
    rw [State.packCount, hparams]
    exact hheight ▸ Nat.min_eq_left (hheight ▸ hle)
  refine ⟨(((exec_sameInputs (i := .scale) rfl).trans (exec_sameInputs (i := .gamma) rfl)).trans
    (exec_sameInputs (i := .dither) rfl)).trans (exec_sameInputs (i := .pack) rfl), ?_, ?_, ?_, ?_⟩
  · rw [hpack]
    exact henv
  · rw [hpack]
    exact congrArg (fun c : Control => { c with jobState := .encoding }) hctl
  · rw [hpack, BitVec.toNat_ofNat, Nat.mod_eq_of_lt (State.packCount_lt _), hcount]
  · rw [hpack, packedRaster_length, hcount, hparams]

end

/-! ## The frames of the queue -/

/-- The lines of a `RASTER` that is held whole (20_memory.md R63). -/
theorem State.rasterLines_eq_map {s : State}
    (hheld : s.buf.raster.length = s.res.nLines.toNat * s.params.cfg.bytes) :
    s.rasterLines = (List.range s.res.nLines.toNat).map fun r =>
      (s.buf.raster.drop (r * s.params.cfg.bytes)).take s.params.cfg.bytes := by
  refine List.ext_getElem? fun r => ?_
  by_cases hr : r < s.res.nLines.toNat
  · rw [State.rasterLines_getElem? hheld hr, List.getElem?_map, List.getElem?_range hr, Option.map_some]
  · rw [List.getElem?_eq_none (by simpa using hr), List.getElem?_eq_none (by simpa using hr)]

/-- The queue of a job with the StatusRequest frame after it, written out (44_protocol_encoder.md R171 to R176). -/
theorem State.queue_append_statreq {s : State}
    (hheld : s.buf.raster.length = s.res.nLines.toNat * s.params.cfg.bytes) :
    let w := s.params.wire
    let n := s.res.nLines.toNat
    s.encodeFrames.buf.txq ++ [w.statreqBytes] =
      [w.initBytes, w.mediaTag ++ [s.job.mediaId] ++ fieldBytes n w.lenWidth w.lenOrder]
      ++ (List.range n).map (fun r => w.rasterTag ++ fieldBytes s.params.cfg.bytes w.rlenWidth w.lenOrder
          ++ (s.buf.raster.drop (r * s.params.cfg.bytes)).take s.params.cfg.bytes)
      ++ [w.printBytes, w.statreqBytes] := by
  intro w n
  have hframes : s.rasterLines.map (frameRaster w) = s.rasterLines.map fun line =>
      w.rasterTag ++ fieldBytes s.params.cfg.bytes w.rlenWidth w.lenOrder ++ line :=
    List.map_congr_left fun line hline => by rw [frameRaster, State.length_of_mem_rasterLines hline]
  have hqueue : s.encodeFrames.buf.txq = buildQueue w s.job.mediaId n s.rasterLines := rfl
  rw [hqueue, buildQueue, hframes, State.rasterLines_eq_map hheld]
  simp [frameInit, frameMedia, framePrint, n, Function.comp_def]

/-! ## `ENCODE`, the queue, and the status -/

@[simp] theorem State.encodeFrames_env (s : State) : s.encodeFrames.env = s.env := rfl
@[simp] theorem State.encodeFrames_job (s : State) : s.encodeFrames.job = s.job := rfl

/-- `ENCODE` and as many steps as the queue has frames lead to `AwaitingStatus`, with a link that accepts the frames. -/
theorem sendsQueue {u : State} {rest : List WriteAnswer} (hj : u.ctl.jobState = .encoding) (hu : Undisturbed u)
    (hanswers : u.env.writeAnswers = List.replicate (u.res.nLines.toNat + 3) .ok ++ rest) :
    ∃ v, RunsBusy (u.res.nLines.toNat + 4) u v ∧ FramesSent u.encodeFrames v u.encodeFrames.buf.txq.length := by
  have hlen : u.encodeFrames.buf.txq.length = u.res.nLines.toNat + 3 := by simp [State.encodeFrames]
  obtain ⟨hencode, hq⟩ := hu.operation (i := .encode) (by rw [decodePosition_position, hj])
    (State.busy_of_jobState hj) rfl rfl
  have hready : ReadyToSend u.encodeFrames :=
    { jobState := rfl, frameIdx := rfl, cancelPend := hq.cancelPend, schedule := hq.schedule
      nonempty := by omega
      length_lt := by omega
      accepts := fun i hi => by
        rw [hlen] at hi
        rw [State.encodeFrames_env, hanswers,
          List.getElem?_append_left (by simpa using hi), List.getElem?_replicate_of_lt hi] }
  obtain ⟨v, hrun, hv⟩ := hready.runsBusy
  have hsteps : u.res.nLines.toNat + 4 = 1 + u.encodeFrames.buf.txq.length := by omega
  exact ⟨v, hsteps ▸ hencode.trans hrun, hv⟩

/-- The StatusRequest frame is accepted and a good reply read: the job is done after two steps (44_protocol_encoder.md
R180, 45_protocol_decoder.md R190). -/
theorem takesGoodReply {v : State} {b : List Byte} {rest : List ReadAnswer}
    (hj : v.ctl.jobState = .awaitingStatus) (haw : v.ctl.awSub = false) (hv : Undisturbed v)
    (hwrite : v.nextWrite = .ok) (hread : v.env.readAnswers = .ok b :: rest)
    (hlen : b.length = v.params.wire.statusLen) (hcheck : v.params.wire.statusCheck.holds b = true)
    (hflags : (decodeStatus v.params.wire b).flags = ⟨false, false, false, false, false⟩) :
    ∃ t, RunsBusy 2 v t
      ∧ t.ctl = { v.ctl with awSub := true, jobState := .done, devOwn := false, cancelPend := false }
      ∧ t.res.nLines = v.res.nLines ∧ t.res.stFrame = decodeStatus v.params.wire b
      ∧ t.env.txLog = v.env.txLog ++ v.params.wire.statreqBytes
      ∧ t.env.calls = v.env.calls ++ [.write v.params.wire.statreqBytes v.job.timeout,
          .read v.params.wire.statusLen v.job.timeout] := by
  obtain ⟨x, hx, hxlog, hxcalls, -, hxread, hxctl, -, hxres, -, hxin⟩ :=
    statusRequestAccepted v .statreqOp (.inl rfl) hwrite
  have hxj : x.ctl.jobState = .awaitingStatus := by rw [hxctl]
  have hxaw : x.ctl.awSub = true := by rw [hxctl]
  obtain ⟨hrun, hxu⟩ := hv.operation (i := .statreqOp) (by rw [decodePosition_position, hj, haw]; rfl)
    (State.busy_of_jobState hj) hx (by rw [hxctl])
  have hreceived : x.receivedReply .statusOp = some b := by
    simp [State.receivedReply, State.nextRead, hxread, hread, hxin.params, ← hlen]
  rw [← hxin.params] at hlen hcheck hflags
  obtain ⟨t, ht, hctl, -, hframe, -, hres, hlog, hcalls, -⟩ :=
    goodReplyEndsInDone x .statusOp b hreceived hlen hcheck hflags
  refine ⟨t, hrun.trans (hxu.runsBusy (by rw [decodePosition_position, hxj, hxaw]; rfl)
    (State.busy_of_jobState hxj) ht), ?_, ?_, ?_, ?_, ?_⟩
  · rw [hctl, hxctl]
  · rw [hres, hxres]
  · rw [hframe, hxin.params]
  · rw [hlog, hxlog]
  · rw [hcalls, hxcalls, hxin.params, hxin.job, List.append_assoc]
    rfl

/-- From the packed raster on, a job whose link accepts every frame and whose reply is good is done after `n + 6` steps,
having sent its queue and the StatusRequest frame. -/
theorem RasterReady.runsToDone {s u : State} {n : Nat} {b : List Byte} {moreWrites : List WriteAnswer}
    {moreReads : List ReadAnswer} (hu : RasterReady s u n) (hs : Undisturbed s)
    (hwrites : s.env.writeAnswers = List.replicate (n + 4) .ok ++ moreWrites)
    (hreads : s.env.readAnswers = .ok b :: moreReads)
    (hlen : b.length = s.params.wire.statusLen) (hcheck : s.params.wire.statusCheck.holds b = true)
    (hflags : (decodeStatus s.params.wire b).flags = ⟨false, false, false, false, false⟩) :
    let frames := u.encodeFrames.buf.txq ++ [s.params.wire.statreqBytes]
    ∃ t, RunsBusy (n + 6) u t ∧ t.ctl.jobState = .done ∧ t.ctl.devOwn = false ∧ t.res.nLines.toNat = n
      ∧ t.ctl.frameIdx.toNat = n + 3 ∧ t.res.stFrame = decodeStatus s.params.wire b
      ∧ t.env.txLog = s.env.txLog ++ frames.flatten
      ∧ t.env.calls = s.env.calls ++ frames.map (fun f => .write f s.job.timeout)
          ++ [.read s.params.wire.statusLen s.job.timeout] := by
  intro frames
  have hqueue : u.encodeFrames.buf.txq.length = n + 3 := by simp [State.encodeFrames, hu.nLines]
  have hanswers : u.env.writeAnswers = List.replicate (n + 3) .ok ++ .ok :: moreWrites := by
    rw [hu.env, hwrites, List.replicate_succ', List.append_assoc, List.singleton_append]
  have hpacked : Undisturbed u := ⟨hu.env ▸ hs.schedule, by rw [hu.ctl]; exact hs.cancelPend⟩
  obtain ⟨v, hsend, hv⟩ := sendsQueue (by rw [hu.ctl]) hpacked (hu.nLines.symm ▸ hanswers)
  have hin : s.SameInputs v :=
    hu.inputs.trans ((exec_sameInputs (i := .encode) (s := u) rfl).trans hv.inputs)
  have hwrite : v.env.writeAnswers = .ok :: moreWrites := by
    rw [hv.writeAnswers, hqueue, State.encodeFrames_env, hanswers,
      List.drop_left' List.length_replicate]
  obtain ⟨t, hread, hctl, hnLines, hframe, hlog, hcalls⟩ := takesGoodReply (v := v) (b := b) (rest := moreReads)
    (hv.jobState.trans (if_pos rfl)) hv.awSub
    ⟨hin.schedule.trans hs.schedule, hv.cancelPend.trans hpacked.cancelPend⟩
    (nextWrite_of_getElem? (by rw [hwrite]; rfl)) (hv.readAnswers.trans (hu.env ▸ hreads))
    (by rw [hin.params, hlen]) (by rw [hin.params, hcheck]) (by rw [hin.params, hflags])
  refine ⟨t, hu.nLines ▸ hsend.trans hread, by rw [hctl], by rw [hctl], ?_, ?_, ?_, ?_, ?_⟩
  · rw [hnLines, hv.res]
    exact hu.nLines
  · rw [hctl]
    exact hv.frameIdx.trans hqueue
  · rw [hframe, hin.params]
  · rw [hlog, hv.txLog, hin.params, List.take_length, State.encodeFrames_env, hu.env]
    simp [frames]
  · rw [hcalls, hv.calls, hin.params, hin.job, List.take_length, State.encodeFrames_env, hu.env,
      State.encodeFrames_job, hu.inputs.job]
    simp [frames]

end Sys2Proof.Machine
end

section
/-! PROOFS. A job that succeeds (46_job_fsm.md R219, R223, 70_reset_and_hazards.md R277). -/

namespace Sys2Proof.Machine

/-- Settles O60: the four stages to the packed raster, and from there the run to `Done`. -/
theorem successfulJobRuns : Obligations.SuccessfulJobRuns := by
  intro s b moreWrites moreReads c w hc n hj hcancel hsched hw hh hok hfits hwrites hreads hlen hcheck hflags
  have hhc : computedHeight c s.job.imgWidth.toNat s.job.imgHeight.toNat = hc := computedHeight_eq ..
  have hn : fittedHeight c s.job.imgWidth.toNat s.job.imgHeight.toNat = n := by rw [fittedHeight, hhc]
  have hs : Undisturbed s := ⟨hsched, hcancel⟩
  have hu : RasterReady s s.scale.gamma.dither.pack n := hn ▸ rasterReady_of_stages hw hh (hhc ▸ hok) hfits
  have hstages := runsBusy_stages hw hh (hhc ▸ hok) hj hs
  obtain ⟨t, hrest, hdone, hown, hnLines, hidx, hframe, hlog, hcalls⟩ :=
    hu.runsToDone hs hwrites hreads hlen hcheck hflags
  have hrun : RunsBusy (n + 10) s t := Nat.add_comm (n + 6) 4 ▸ hstages.trans hrest
  have hqueue := State.queue_append_statreq (s := s.scale.gamma.dither.pack)
    (by rw [hu.nLines, hu.inputs.params, hu.raster])
  rw [hu.nLines, hu.inputs.params, hu.inputs.job] at hqueue
  refine ⟨hrun.busy, _, _, _, _, t, rfl, rfl, rfl, rfl, hu.raster, hrun.run, hdone, hown, hnLines, hidx, hframe, ?_⟩
  exact hqueue ▸ ⟨hlog, hcalls⟩

end Sys2Proof.Machine
end

section
/-! PROOFS. A hardware reset from any state, and that no state of the invariant stops the machine (70_reset_and_hazards.md
R270 to R272, R275, 60_exceptions.md R251). -/

namespace Sys2Proof.Machine

/-! ## A hardware reset -/

/-- The environment, which a hardware reset keeps in part (log entry 17), is in no register. -/
theorem readRegister_hardwareReset (s : State) (n : Nat) :
    s.hardwareReset.readRegister n = (State.resetWith s.params).readRegister n := rfl

/-- Settles O3: the next state is `State.hardwareReset`, after the event is taken off the schedule. -/
theorem hardwareResetFromAnyState : Obligations.HardwareResetFromAnyState := fun s he =>
  ⟨s.popEvent.hardwareReset, step_of_nextEvent he, rfl, readRegister_hardwareReset s.popEvent,
    fun _ hi => toNat_lutCell_of_nil rfl hi, stRawCell_of_not_valid rfl, rfl, rfl, rfl, rfl, rfl⟩

/-! ## Every event leads on -/

/-- Only `TX` can stop the machine, and only where the queue has no frame at `FRAME_IDX`. -/
theorem exists_exec_eq_next {i : Instr} {s : State} (h : i = .tx → s.ctl.frameIdx.toNat < s.buf.txq.length) :
    ∃ t, exec i s = .next t := by
  cases i with
  | tx => exact ⟨_, exec_tx_of_frame (List.getElem?_eq_getElem (h rfl))⟩
  | _ => exact ⟨_, rfl⟩

theorem jobState_of_decodePosition_tx {s : State} (h : decodePosition s.position = .ok .tx) :
    s.ctl.jobState = .transferring := by
  rw [decodePosition_position] at h
  cases hj : s.ctl.jobState with
  | transferring => rfl
  | awaitingStatus =>
    simp only [hj] at h
    split at h <;> cases h
  | _ =>
    simp only [hj] at h
    cases h

/-- In `Transferring` the queue of the job has a frame left to send. -/
theorem Inv.frameIdx_lt_length_txq {s : State} (h : Inv s) (hj : s.ctl.jobState = .transferring) :
    s.ctl.frameIdx.toNat < s.buf.txq.length := by
  have hpipe := h.pipeline
  simp only [PipelineInv, hj] at hpipe
  obtain ⟨-, -, hqueue, hidx⟩ := hpipe
  simpa [hqueue] using hidx

/-- A core step from a state of the invariant leads on: idle, at a pending cancellation, and at each operation. -/
theorem Inv.exists_step_eq_next {s : State} (h : Inv s) (he : s.nextEvent = .core) : ∃ t, step s = .next t := by
  cases hb : s.busy with
  | false => exact ⟨_, (step_of_nextEvent he).trans (coreStep_of_not_busy (s := s.popEvent) hb)⟩
  | true =>
    cases hc : s.ctl.cancelPend with
    | true => exact ⟨_, (step_of_nextEvent he).trans (coreStep_of_cancelPend (s := s.popEvent) hb hc)⟩
    | false =>
      obtain ⟨i, hi, hstep, -⟩ := stepRunsStageOperation s he hb hc
      rw [hstep]
      refine exists_exec_eq_next (s := s.popEvent) fun htx => h.frameIdx_lt_length_txq ?_
      subst htx
      exact jobState_of_decodePosition_tx hi

/-- Settles O57: a core step by the invariant, any other event from every state. -/
theorem stepsWithoutFault : Obligations.StepsWithoutFault := by
  intro s h
  by_cases he : s.nextEvent = .core
  · obtain hinv | hne := h
    · exact hinv.exists_step_eq_next he
    · exact absurd he hne
  · rw [step_of_nextEvent rfl]
    exact perform_of_ne_core he s.popEvent

end Sys2Proof.Machine
end
